-- ==== Sys2Proof/Word.lean ====
section
/-!
DEFINITION. The widths of the block's data: 00_scope R5 (`BYTE_W`, `CP_W`, `POS_WIDTH`, `REQ_W`), 30_encoding R46, R47.
-/

namespace Sys2Proof

/-- A byte unit, `BYTE_W` = 8 bits (R5, R31); also a cell offset, bit `d - 1` for dot `d` (R61). -/
abbrev Byte := BitVec 8

/-- Half a byte unit, or one decimal digit of style `bcd` (R77, R92). -/
abbrev Nibble := BitVec 4

/-- A code point as the request's `data` field carries it, `CP_W` = 21 bits (R5, R45). -/
abbrev CodePoint := BitVec 21

/-- The response's `data` field, 16 bits: an output code point, a zero-extended byte, or the context of `STAT` (R47). -/
abbrev OutUnit := BitVec 16

/-- A request word, `REQ_W` = 32 bits (R40). -/
abbrev Request := BitVec 32

/-- A position, `POS_WIDTH` = 64 bits (R13). -/
abbrev Position := BitVec 64

end Sys2Proof
end

