-- ==== Sys2Proof/Config.lean ====
section
/-!
DEFINITION. The open parameters of an instance (00_scope R5): constant for its life (10_state R11), never written by a
command or by reset (70 R161). No value is fixed here: a claim quantifies over `Config`, or names `Config.standard`.
-/

namespace Sys2Proof

/-- A column of the Braille cell (R8, R60). -/
inductive Column where
  | left
  | right
  deriving DecidableEq, Repr

/-- Which row takes the most significant bit of a nibble: row 0 (`top`) or row 3 (`bottom`) (R75). -/
inductive MsbRow where
  | top
  | bottom
  deriving DecidableEq, Repr

/-- The parameters the spec leaves OPEN (R5): the column of the tens digit and the most-significant-bit row of style
`bcd` (R90), and the separator set (R140), given by its members. -/
structure Config where
  bcdTCol   : Column
  bcdMsbRow : MsbRow
  sep       : List CodePoint
  deriving DecidableEq, Repr

/-- The code point is in the Braille Patterns block, 0x2800 to 0x28FF (R1, R139). -/
def isBraille (c : CodePoint) : Bool :=
  0x2800#21 ≤ c && c ≤ 0x28FF#21

/-- The constraints of R140 on `SEP`: (a) U+000A and U+0020 are members, (b) no Braille character is. Constraint (c),
that it never changes, is a property of the step. -/
def Config.wf (g : Config) : Bool :=
  g.sep.contains 0x0A#21 && g.sep.contains 0x20#21 && g.sep.all (fun c => !isBraille c)

/-- The spec's default parameters (R5, R90, R140). DESIGN CHOICE of the spec (92 D8, D9), log 3. -/
def Config.standard : Config :=
  { bcdTCol := .left, bcdMsbRow := .bottom, sep := [0x09#21, 0x0A#21, 0x0D#21, 0x20#21] }

end Sys2Proof
end

