-- ==== Sys2Proof/Syntax.lean ====
section
/-!
DEFINITION. The fifteen instructions of the opcode table (30_encoding R41), with the operands R45 gives them.
-/

namespace Sys2Proof

/-- The six styles, a closed set (R44, R100). -/
inductive Style where
  | bcd
  | direct
  | nlbb
  | nlbt
  | nrbb
  | nrbt
  deriving DecidableEq, Repr

/-- The direction of a call: `DIR` = 0 encode, 1 decode (R14, R40). -/
inductive Direction where
  | enc
  | dec
  deriving DecidableEq, Repr

/-- One constructor per row of the opcode table. `start` carries the three bits of its `style` field as the request has
them: 6 and 7 are ill-formed (R44). The operand of `put` is the whole `data` field: `DIR` decides whether it is a byte or a
code point (R45). -/
inductive Instr where
  | encBcd    (b : Byte)
  | encDirect (b : Byte)
  | encNlbb   (b : Byte)
  | encNlbt   (b : Byte)
  | encNrbb   (b : Byte)
  | encNrbt   (b : Byte)
  | decBcd    (c : CodePoint)
  | decDirect (c : CodePoint)
  | decNlbb   (c : CodePoint)
  | decNlbt   (c : CodePoint)
  | decNrbb   (c : CodePoint)
  | decNrbt   (c : CodePoint)
  | start     (dir : Direction) (style : BitVec 3)
  | put       (unit : CodePoint)
  | stat
  deriving DecidableEq, Repr

/-- The instruction is `ENC.<style>` or `DEC.<style>`: a one-shot kernel command (R2, R41). -/
def Instr.isOneShot : Instr → Bool
  | .encBcd _ | .encDirect _ | .encNlbb _ | .encNlbt _ | .encNrbb _ | .encNrbt _ => true
  | .decBcd _ | .decDirect _ | .decNlbb _ | .decNlbt _ | .decNrbb _ | .decNrbt _ => true
  | .start _ _ | .put _ | .stat => false

/-- The instruction is `START`, the only one that begins a call (R110). -/
def Instr.isStart : Instr → Bool
  | .start _ _ => true
  | _ => false

/-- The operand of a `PUT` (R110: a call's input units are the operands of its `PUT`s). -/
def Instr.putUnit? : Instr → Option CodePoint
  | .put u => some u
  | _ => none

end Sys2Proof
end

