-- ==== Sys2Proof/WellFormed.lean ====
section
/-!
DEFINITION. What a request word can express (30_encoding R44, R50): the one check that the operand types leave is
`START`'s style code. The operand condition of `PUT` depends on the register `DIR` (R45), so it is no part of this check:
the meaning of `PUT` makes it.
-/

namespace Sys2Proof

/-- `START` names one of the six styles (R44: codes 6 and 7 are reserved); every other instruction is well formed. -/
def Instr.wf : Instr → Bool
  | .start _ style => style ≤ 5#3
  | _ => true

end Sys2Proof
end

