-- ==== Sys2Proof/Decode.lean ====
section
/-!
DEFINITION. The request word (30_encoding R40 to R45): decoding, total on all 2^32 words, every reserved word rejected by
the item of R50 it falls under; then the encoder, by the assembler's formula (R53) on the fields of R42; the table of match and
mask values (R43); and the host's entry `decodeTableWord`.
-/

namespace Sys2Proof

/-! ### Codes -/

/-- Style codes (R44). -/
def Style.code : Style → BitVec 3
  | .bcd    => 0#3
  | .direct => 1#3
  | .nlbb   => 2#3
  | .nlbt   => 3#3
  | .nrbb   => 4#3
  | .nrbt   => 5#3

/-- The style of a code; 6 and 7 are reserved (R44). -/
def Style.ofCode (k : BitVec 3) : Option Style :=
  if k = 0#3 then some .bcd
  else if k = 1#3 then some .direct
  else if k = 2#3 then some .nlbb
  else if k = 3#3 then some .nlbt
  else if k = 4#3 then some .nrbb
  else if k = 5#3 then some .nrbt
  else none

/-- `DIR`: 0 = encode, 1 = decode (R40). -/
def Direction.code : Direction → BitVec 1
  | .enc => 0#1
  | .dec => 1#1

/-- The direction of the `dir` bit (R40). -/
def Direction.ofCode (d : BitVec 1) : Direction :=
  if d = 0#1 then .enc else .dec

/-- `ENC.<style> b` (R41). -/
def Instr.encOf : Style → Byte → Instr
  | .bcd,    b => .encBcd b
  | .direct, b => .encDirect b
  | .nlbb,   b => .encNlbb b
  | .nlbt,   b => .encNlbt b
  | .nrbb,   b => .encNrbb b
  | .nrbt,   b => .encNrbt b

/-- `DEC.<style> c` (R41). -/
def Instr.decOf : Style → CodePoint → Instr
  | .bcd,    c => .decBcd c
  | .direct, c => .decDirect c
  | .nlbb,   c => .decNlbb c
  | .nlbt,   c => .decNlbt c
  | .nrbb,   c => .decNrbb c
  | .nrbt,   c => .decNrbt c

/-! ### The fields of a request word (R40) -/

/-- `cmd` = REQ[31:28]. -/
def reqCmd (w : Request) : BitVec 4 := w.extractLsb' 28 4

/-- `style` = REQ[27:25]. -/
def reqStyle (w : Request) : BitVec 3 := w.extractLsb' 25 3

/-- `dir` = REQ[24]. -/
def reqDir (w : Request) : BitVec 1 := w.extractLsb' 24 1

/-- `rsv` = REQ[23:21]. -/
def reqRsv (w : Request) : BitVec 3 := w.extractLsb' 21 3

/-- `data` = REQ[20:0]. -/
def reqData (w : Request) : CodePoint := w.extractLsb' 0 21

/-- The byte operand `data[7:0]`, legal only where `data[20:8]` = 0 (R45). -/
def byteOperand (data : CodePoint) : Option Byte :=
  if data.extractLsb' 8 13 = 0#13 then some (data.extractLsb' 0 8) else none

/-! ### Decoding -/

/-- Why a request is reserved: the seven items of R50, in its order. -/
inductive ReservedReason where
  /-- Item 1: `cmd` in 0x5..0xF. -/
  | cmd
  /-- Item 2: `rsv` (bits 23:21) not 0. -/
  | rsv
  /-- Item 3: `style` in 6, 7 in `ENC`, `DEC` or `START`. -/
  | styleCode
  /-- Item 4: `style` not 0 in `PUT` or `STAT`. -/
  | styleField
  /-- Item 5: `dir` not 0 in `ENC`, `DEC`, `PUT` or `STAT`. -/
  | dirField
  /-- Item 6: `data[20:8]` not 0 in `ENC`, or in `PUT` while `DIR` = 0. -/
  | byteField
  /-- Item 7: `data` not 0 in `START` or `STAT`. -/
  | dataField
  deriving DecidableEq, Repr

/-- `ENC.<style>` (R42, R45): `dir` 0, a byte operand, one of the six styles. -/
def decodeEnc (w : Request) : Except ReservedReason Instr :=
  if reqDir w ≠ 0#1 then .error .dirField
  else
    match byteOperand (reqData w) with
    | none => .error .byteField
    | some b =>
      match Style.ofCode (reqStyle w) with
      | none => .error .styleCode
      | some st => .ok (.encOf st b)

/-- `DEC.<style>` (R42, R45): `dir` 0, any code point, one of the six styles. -/
def decodeDec (w : Request) : Except ReservedReason Instr :=
  if reqDir w ≠ 0#1 then .error .dirField
  else
    match Style.ofCode (reqStyle w) with
    | none => .error .styleCode
    | some st => .ok (.decOf st (reqData w))

/-- `START` (R42, R45): `data` 0, one of the six styles. -/
def decodeStart (w : Request) : Except ReservedReason Instr :=
  if reqData w ≠ 0#21 then .error .dataField
  else
    match Style.ofCode (reqStyle w) with
    | none => .error .styleCode
    | some _ => .ok (.start (.ofCode (reqDir w)) (reqStyle w))

/-- `PUT` (R42): `style` and `dir` 0; the operand's own condition depends on the register `DIR` (R45). -/
def decodePut (w : Request) : Except ReservedReason Instr :=
  if reqStyle w ≠ 0#3 then .error .styleField
  else if reqDir w ≠ 0#1 then .error .dirField
  else .ok (.put (reqData w))

/-- `STAT` (R42): every bit below `cmd` is 0. -/
def decodeStat (w : Request) : Except ReservedReason Instr :=
  if reqStyle w ≠ 0#3 then .error .styleField
  else if reqDir w ≠ 0#1 then .error .dirField
  else if reqData w ≠ 0#21 then .error .dataField
  else .ok .stat

/-- The instruction of a request word, or the item of R50 that reserves it (R41 to R45, R50). A word that falls under
several items is rejected under one of them: DESIGN CHOICE, log 7. -/
def decode (w : Request) : Except ReservedReason Instr :=
  if reqRsv w ≠ 0#3 then .error .rsv
  else if reqCmd w = 0#4 then decodeEnc w
  else if reqCmd w = 1#4 then decodeDec w
  else if reqCmd w = 2#4 then decodeStart w
  else if reqCmd w = 3#4 then decodePut w
  else if reqCmd w = 4#4 then decodeStat w
  else .error .cmd

/-! ### Encoding -/

/-- A word from its fields, `REQ = cmd << 28 | style << 25 | dir << 24 | data`, `rsv` 0 (R40, R53). -/
def assemble (cmd : BitVec 4) (style : BitVec 3) (dir : BitVec 1) (data : CodePoint) : Request :=
  cmd.zeroExtend 32 <<< 28 ||| style.zeroExtend 32 <<< 25 ||| dir.zeroExtend 32 <<< 24 ||| data.zeroExtend 32

/-- The word of an instruction (R42). -/
def encode : Instr → Request
  | .encBcd b        => assemble 0#4 0#3 0#1 (b.zeroExtend 21)
  | .encDirect b     => assemble 0#4 1#3 0#1 (b.zeroExtend 21)
  | .encNlbb b       => assemble 0#4 2#3 0#1 (b.zeroExtend 21)
  | .encNlbt b       => assemble 0#4 3#3 0#1 (b.zeroExtend 21)
  | .encNrbb b       => assemble 0#4 4#3 0#1 (b.zeroExtend 21)
  | .encNrbt b       => assemble 0#4 5#3 0#1 (b.zeroExtend 21)
  | .decBcd c        => assemble 1#4 0#3 0#1 c
  | .decDirect c     => assemble 1#4 1#3 0#1 c
  | .decNlbb c       => assemble 1#4 2#3 0#1 c
  | .decNlbt c       => assemble 1#4 3#3 0#1 c
  | .decNrbb c       => assemble 1#4 4#3 0#1 c
  | .decNrbt c       => assemble 1#4 5#3 0#1 c
  | .start dir style => assemble 2#4 style dir.code 0#21
  | .put u           => assemble 3#4 0#3 0#1 u
  | .stat            => assemble 4#4 0#3 0#1 0#21

/-! ### The match and mask table (R43) -/

/-- The mnemonic of an instruction, as the opcode table spells it (R41). -/
def Instr.mnemonic : Instr → String
  | .encBcd _    => "ENC.bcd"
  | .encDirect _ => "ENC.direct"
  | .encNlbb _   => "ENC.nlbb"
  | .encNlbt _   => "ENC.nlbt"
  | .encNrbb _   => "ENC.nrbb"
  | .encNrbt _   => "ENC.nrbt"
  | .decBcd _    => "DEC.bcd"
  | .decDirect _ => "DEC.direct"
  | .decNlbb _   => "DEC.nlbb"
  | .decNlbt _   => "DEC.nlbt"
  | .decNrbb _   => "DEC.nrbb"
  | .decNrbt _   => "DEC.nrbt"
  | .start _ _   => "START"
  | .put _       => "PUT"
  | .stat        => "STAT"

/-- A row of R43: a request `w` selects it when `w & mask == match`. -/
structure TableRow where
  mnemonic : String
  pattern  : Request
  mask     : Request
  deriving DecidableEq, Repr

/-- The rows of R43 for the twelve kernel instructions. -/
def kernelRows : List TableRow :=
  [ ⟨"ENC.bcd",    0x00000000#32, 0xFFFFFF00#32⟩,
    ⟨"ENC.direct", 0x02000000#32, 0xFFFFFF00#32⟩,
    ⟨"ENC.nlbb",   0x04000000#32, 0xFFFFFF00#32⟩,
    ⟨"ENC.nlbt",   0x06000000#32, 0xFFFFFF00#32⟩,
    ⟨"ENC.nrbb",   0x08000000#32, 0xFFFFFF00#32⟩,
    ⟨"ENC.nrbt",   0x0A000000#32, 0xFFFFFF00#32⟩,
    ⟨"DEC.bcd",    0x10000000#32, 0xFFE00000#32⟩,
    ⟨"DEC.direct", 0x12000000#32, 0xFFE00000#32⟩,
    ⟨"DEC.nlbb",   0x14000000#32, 0xFFE00000#32⟩,
    ⟨"DEC.nlbt",   0x16000000#32, 0xFFE00000#32⟩,
    ⟨"DEC.nrbb",   0x18000000#32, 0xFFE00000#32⟩,
    ⟨"DEC.nrbt",   0x1A000000#32, 0xFFE00000#32⟩ ]

/-- The rows of R43 for the sequencer's instructions. -/
def streamRows : List TableRow :=
  [ ⟨"START", 0x20000000#32, 0xF0FFFFFF#32⟩,
    ⟨"PUT",   0x30000000#32, 0xFFE00000#32⟩,
    ⟨"STAT",  0x40000000#32, 0xFFFFFFFF#32⟩ ]

/-- The fifteen rows of R43. -/
def requestTable : List TableRow := kernelRows ++ streamRows

/-- `w` selects the row: `w & mask == match`, and for `START` the style is not 6 or 7 (R43). -/
def TableRow.selects (r : TableRow) (w : Request) : Bool :=
  (w &&& r.mask) == r.pattern && (r.mnemonic != "START" || reqStyle w ≤ 5#3)

/-! ### The host's entry -/

/-- What the decoder reads from an instruction whose bits are `w`, `nbits` of them given by the table, the rest 0. A
request is one 32-bit word (R40), so at most 32 bits are read. -/
def decodeTableWord (nbits w : Nat) : Option Instr :=
  if nbits ≤ 32 ∧ w < 2 ^ nbits then (decode (BitVec.ofNat 32 w)).toOption else none

end Sys2Proof
end

