-- ==== Sys2Proof/Machine/State.lean ====
section
/-!
DEFINITION. The state of one instance (10_state), its port records (30_encoding R47), the outcomes that are no next state,
and the state after reset (70 R160).
-/

namespace Sys2Proof.Machine

/-- The block's two kinds of error (60 R135). They are answers with a next state, never a stop of the machine. -/
inductive ErrorKind where
  | domainError
  | invalidCharacterError
  deriving DecidableEq, Repr

/-- The status of a response (R48). -/
inductive Status where
  | okData
  | okNoData
  | errDomain
  | errInvalidChar
  deriving DecidableEq, Repr

/-- The response record (R47). -/
structure Response where
  status : Status
  data   : OutUnit
  pos    : Position
  deriving DecidableEq, Repr

/-- What the host does to the block: it issues a request word (20_memory R36), or resets it between two requests
(70 R160). -/
inductive HostEvent where
  | request (w : Request)
  | reset
  deriving DecidableEq, Repr

/-- One instance of the block. `style`, `dir`, `pos`, `fault`, `epos` are its five registers `STYLE`, `DIR`, `POS`,
`FAULT`, `EPOS` (10_state section 2); `fault` is `none` for 0 (no error), and the kind for 2 and 3 (R15, R135).
`cfg` holds the open parameters, constant for the life of the instance (R11): log 3.
`inputs` is what the host will still present, oldest first (log 1); `responses` is what left the block, oldest first
(log 2). -/
structure State where
  cfg       : Config
  style     : Style
  dir       : Direction
  pos       : Position
  fault     : Option ErrorKind
  epos      : Position
  inputs    : List HostEvent
  responses : List Response
  deriving DecidableEq, Repr

/-- Reasons to stop with a fault. The block has none: its two errors are answers (60 R142, R143), and what the spec gives
no effect is refused (R52). Nothing raises it: log 10. -/
inductive Fault where
  deriving DecidableEq, Repr

/-- Reasons to give a request no step (30 R52). Each is safe: nothing can be proved about a run that issues one. -/
inductive Refusal where
  /-- Raised by an arm of `exec` whose instruction has no meaning yet; no arm is left so. Safe. -/
  | notModelled (mnemonic : String)
  /-- Raised by `step` on a request word that the decoder rejects, by `START` with style code 6 or 7 (R14), and by `PUT`
  with `data[20:8]` not 0 while `DIR` = 0 (R45): the request is reserved (R50, R52). Safe. -/
  | reserved (why : ReservedReason)
  /-- Raised by `PUT` when `FAULT` = 0 and `POS` = 2^64 - 1 (R13, R52). Safe. -/
  | positionsExhausted
  deriving DecidableEq, Repr

/-- An instance after reset, with the parameters `g`: `STYLE` = 2 (`nlbb`), `DIR` = 0, `POS` = 0, `FAULT` = 0, `EPOS` = 0
(R17, R160). -/
def State.resetWith (g : Config) : State :=
  { cfg := g, style := .nlbb, dir := .enc, pos := 0#64, fault := none, epos := 0#64, inputs := [], responses := [] }

/-- The machine right after reset (R160), with the spec's default parameters (R5): log 3. No request has been presented
and no response given: log 1, 2. -/
def State.reset : State := State.resetWith Config.standard

end Sys2Proof.Machine
end

