-- ==== Sys2Proof/Machine/Flags.lean ====
section
/-!
DEFINITION. Status and error codes (30_encoding R47, R48; 60 R135), the packed response, and the context word of `STAT`
(44_stream R108).
-/

namespace Sys2Proof.Machine

/-- Status codes (R48). -/
def Status.code : Status → BitVec 2
  | .okData         => 0#2
  | .okNoData       => 1#2
  | .errDomain      => 2#2
  | .errInvalidChar => 3#2

/-- The status that reports an error (R48, R135). -/
def ErrorKind.status : ErrorKind → Status
  | .domainError           => .errDomain
  | .invalidCharacterError => .errInvalidChar

/-- The value register `FAULT` holds: 0 without an error, else the code of the latched one (R15, R135). -/
def faultCode : Option ErrorKind → BitVec 2
  | none   => 0#2
  | some k => k.status.code

/-- `RESP[81:0] = {status, data, pos}` (R47). -/
def Response.pack (r : Response) : BitVec 82 := r.status.code ++ r.data ++ r.pos

/-- `zext_16({DIR, STYLE})`: `STYLE` in bits 2:0, `DIR` in bit 3 (R49, R108). -/
def contextWord (dir : Direction) (style : Style) : OutUnit :=
  (dir.code ++ style.code : BitVec 4).zeroExtend 16

end Sys2Proof.Machine
end

