-- ==== Sys2Proof/Machine/DotGrid.lean ====
section
/-!
DEFINITION. Dot-grid addressing (40_dot_grid): the cell, its dots, the offset bit of each dot, the code point of a cell.
-/

namespace Sys2Proof.Machine

/-- The number of the dot at a grid position (R60). -/
def dotAt : Column → Fin 4 → Nat
  | .left,  0 => 1
  | .left,  1 => 2
  | .left,  2 => 3
  | .left,  3 => 7
  | .right, 0 => 4
  | .right, 1 => 5
  | .right, 2 => 6
  | .right, 3 => 8

/-- `offset_bit_for(column, row)` (R62). -/
def offsetBitFor : Column → Fin 4 → Fin 8
  | .left,  0 => 0
  | .left,  1 => 1
  | .left,  2 => 2
  | .left,  3 => 6
  | .right, 0 => 3
  | .right, 1 => 4
  | .right, 2 => 5
  | .right, 3 => 7

/-- `position_of(bit)` (R63). -/
def positionOf : Fin 8 → Column × Fin 4
  | 0 => (.left, 0)
  | 1 => (.left, 1)
  | 2 => (.left, 2)
  | 3 => (.right, 0)
  | 4 => (.right, 1)
  | 5 => (.right, 2)
  | 6 => (.left, 3)
  | 7 => (.right, 3)

/-- Dot `d` of a cell is raised: bit `d - 1` of the offset (R61). -/
def dotRaised (offset : Byte) (d : Nat) : Bool := offset.getLsbD (d - 1)

/-- The offset bits a column owns (R64). -/
def columnMask : Column → Byte
  | .left  => 0x47#8
  | .right => 0xB8#8

/-- `other(column)` (R78). -/
def otherColumn : Column → Column
  | .left  => .right
  | .right => .left

/-- `CellToCp(offset) = 0x2800 + offset`, 16 bits (R65). -/
def cellToCp (offset : Byte) : OutUnit := 0x2800#16 + offset.zeroExtend 16

/-- `CpToCell(c) = c - 0x2800` for `c` in 0x2800..0x28FF, and undefined elsewhere (R65): `none` there, log 9. -/
def cpToCell (c : CodePoint) : Option Byte :=
  if isBraille c then some ((c - 0x2800#21).truncate 8) else none

end Sys2Proof.Machine
end

