-- ==== Sys2Proof/Machine/Operands.lean ====
section
/-!
DEFINITION. What a unit is turned into: the nibble functions (42_nibble_column section 2), the digits of `bcd` (43_bcd),
the classification of a decode input (60 R139), and the per-unit functions `EncUnit` and `DecUnit` (44_stream R100 to R102).
-/

namespace Sys2Proof.Machine

/-! ### Nibbles and columns (R75 to R79) -/

/-- `RowOf(k, msb)` (R75). -/
def rowOf (k : Fin 4) : MsbRow → Fin 4
  | .bottom => k
  | .top    => k.rev

/-- Bit `k` of a nibble, at the offset bit its row and column give it (R76, one term of the OR). -/
def placeBit (n : Nibble) (col : Column) (msb : MsbRow) (k : Fin 4) : Byte :=
  (n.extractLsb' k.val 1).zeroExtend 8 <<< (offsetBitFor col (rowOf k msb)).val

/-- `Place(n, col, msb)` (R76). -/
def place (n : Nibble) (col : Column) (msb : MsbRow) : Byte :=
  placeBit n col msb 0 ||| placeBit n col msb 1 ||| placeBit n col msb 2 ||| placeBit n col msb 3

/-- Bit `k` of the nibble a column holds (R77, one term of the OR). -/
def extractBit (offset : Byte) (col : Column) (msb : MsbRow) (k : Fin 4) : Nibble :=
  (offset.extractLsb' (offsetBitFor col (rowOf k msb)).val 1).zeroExtend 4 <<< k.val

/-- `Extract(offset, col, msb)` (R77). -/
def extract (offset : Byte) (col : Column) (msb : MsbRow) : Nibble :=
  extractBit offset col msb 0 ||| extractBit offset col msb 1 ||| extractBit offset col msb 2 ||| extractBit offset col msb 3

/-- The most significant nibble, bits 7 to 4 (R31, R78). -/
def msn (b : Byte) : Nibble := b.extractLsb' 4 4

/-- The least significant nibble, bits 3 to 0 (R31, R78). -/
def lsn (b : Byte) : Nibble := b.extractLsb' 0 4

/-- `NibEnc(b, msncol, msb)` (R78). -/
def nibEnc (b : Byte) (msncol : Column) (msb : MsbRow) : Byte :=
  place (msn b) msncol msb ||| place (lsn b) (otherColumn msncol) msb

/-- `NibDec(offset, msncol, msb) = (MSN << 4) | LSN` (R79). -/
def nibDec (offset : Byte) (msncol : Column) (msb : MsbRow) : Byte :=
  (extract offset msncol msb).zeroExtend 8 <<< 4 ||| (extract offset (otherColumn msncol) msb).zeroExtend 8

/-! ### Unit results -/

/-- The result of a per-unit function: `Ok(v)`, `Skip`, `Err(kind)` (00_scope R7, notation). -/
inductive UnitResult (α : Type) where
  | ok (v : α)
  | skip
  | err (k : ErrorKind)
  deriving DecidableEq, Repr

/-! ### Style `bcd` (R90 to R93) -/

/-- The domain of style `bcd` is 0 to 99 (R92). -/
def bcdDomain (b : Byte) : Bool := b < 100#8

/-- `Pack(v) = ((v / 10) << 4) | (v % 10)` (R91). -/
def bcdPack (v : Byte) : Byte := (v / 10#8) <<< 4 ||| v % 10#8

/-- `encode_byte` of style `bcd`: the tens digit into column `BCD_T_COL`, the units digit into the other, both by
`BCD_MSB_ROW`; a byte of 100 or more is a `DomainError` (R92). -/
def bcdEncode (g : Config) (b : Byte) : UnitResult OutUnit :=
  if bcdDomain b then
    .ok (cellToCp
      (place ((b / 10#8).truncate 4) g.bcdTCol g.bcdMsbRow |||
       place ((b % 10#8).truncate 4) (otherColumn g.bcdTCol) g.bcdMsbRow))
  else .err .domainError

/-- `decode_char` of style `bcd` on a cell: a digit above 9 is a `DomainError`, tested digit by digit (R93; 90_conflicts
C1); else the value is `10 * T + U`. -/
def bcdDecodeCell (g : Config) (offset : Byte) : UnitResult Byte :=
  let t := extract offset g.bcdTCol g.bcdMsbRow
  let u := extract offset (otherColumn g.bcdTCol) g.bcdMsbRow
  if 9#4 < t ∨ 9#4 < u then .err .domainError
  else .ok (10#8 * t.zeroExtend 8 + u.zeroExtend 8)

/-! ### Classification (R139) -/

/-- The class of a decode input; a Braille character comes with its cell offset. -/
inductive CharClass where
  | braille (offset : Byte)
  | separator
  | invalid
  deriving DecidableEq, Repr

/-- `Classify(c)` (R139), total on all 2^21 values. -/
def classify (g : Config) (c : CodePoint) : CharClass :=
  match cpToCell c with
  | some o => .braille o
  | none => if g.sep.contains c then .separator else .invalid

/-- The shape all decoding shares (42 section 4, R102): classify, and decode the cell of a Braille character by
`cellDecode`. -/
def decodeChar (g : Config) (cellDecode : Byte → UnitResult Byte) (c : CodePoint) : UnitResult Byte :=
  match classify g c with
  | .braille o => cellDecode o
  | .separator => .skip
  | .invalid => .err .invalidCharacterError

/-! ### The per-unit functions of a style (R100 to R102) -/

/-- How a style transforms a unit (R100). -/
inductive StyleKind where
  | decimal (tCol : Column) (msb : MsbRow)
  | identity
  | nibble (msnCol : Column) (msb : MsbRow)
  deriving DecidableEq, Repr

/-- `StyleParams(s)` (R100). -/
def styleParams (g : Config) : Style → StyleKind
  | .bcd    => .decimal g.bcdTCol g.bcdMsbRow
  | .direct => .identity
  | .nlbb   => .nibble .left .bottom
  | .nlbt   => .nibble .left .top
  | .nrbb   => .nibble .right .bottom
  | .nrbt   => .nibble .right .top

/-- `EncUnit(s, b)`, the source's `encode_byte` (R101). -/
def encUnit (g : Config) (st : Style) (b : Byte) : UnitResult OutUnit :=
  match styleParams g st with
  | .decimal _ _ => bcdEncode g b
  | .identity => .ok (cellToCp b)
  | .nibble col msb => .ok (cellToCp (nibEnc b col msb))

/-- `decode_char` of a style on a cell (R102, the Braille case). -/
def decCell (g : Config) (st : Style) (offset : Byte) : UnitResult Byte :=
  match styleParams g st with
  | .decimal _ _ => bcdDecodeCell g offset
  | .identity => .ok offset
  | .nibble col msb => .ok (nibDec offset col msb)

/-- `DecUnit(s, c)`, the source's `decode_char` after the classification of `c` (R102). -/
def decUnit (g : Config) (st : Style) (c : CodePoint) : UnitResult Byte :=
  decodeChar g (decCell g st) c

/-- The domain of a style's byte side (R44): 0 to 99 for `bcd`, every byte for the others. -/
def inDomain : Style → Byte → Bool
  | .bcd, b => bcdDomain b
  | _, _ => true

end Sys2Proof.Machine
end

