-- ==== Sys2Proof/Machine/Ops.lean ====
section
/-!
DEFINITION. The named operations the meanings share: responding (R47), raising an error in a one-shot command (60 R142) and
in a call (60 R143), starting a call (44 R103) which is also the only return from an error (60 R144), reset (70 R160).
-/

namespace Sys2Proof.Machine

/-- `respond(status, data, pos)` (R47): one response leaves the block, after the earlier ones (R34). -/
def State.respond (s : State) (status : Status) (data : OutUnit) (pos : Position) : State :=
  { s with responses := s.responses ++ [{ status := status, data := data, pos := pos }] }

/-! ### One-shot commands: no register is read or written (R10) -/

/-- An error in a one-shot command is complete in the response (R142). -/
def State.raiseOneShot (s : State) (k : ErrorKind) : State :=
  s.respond k.status 0#16 0#64

/-- The answer of a one-shot encode (R101: `Ok` and `Err` as responses; encoding never skips, R107). -/
def State.answerEnc (s : State) : UnitResult OutUnit → State
  | .ok cp => s.respond .okData cp 0#64
  | .skip  => s.respond .okNoData 0#16 0#64
  | .err k => s.raiseOneShot k

/-- The answer of a one-shot decode (R102). -/
def State.answerDec (s : State) : UnitResult Byte → State
  | .ok b  => s.respond .okData (b.zeroExtend 16) 0#64
  | .skip  => s.respond .okNoData 0#16 0#64
  | .err k => s.raiseOneShot k

/-! ### The sequencer -/

/-- A unit accepted in a call: respond with the position, `POS <- POS + 1` (R13, R105, R107). -/
def State.acceptUnit (s : State) (status : Status) (data : OutUnit) : State :=
  { s.respond status data s.pos with pos := s.pos + 1#64 }

/-- Error entry in a call: `FAULT <- code`, `EPOS <- POS`, respond `(code, 0, POS)`; `POS` stays (R106, R143). -/
def State.raiseInCall (s : State) (k : ErrorKind) : State :=
  { s.respond k.status 0#16 s.pos with fault := some k, epos := s.pos }

/-- A `PUT` while an error is latched: report it again, write nothing (R104). -/
def State.repeatError (s : State) (k : ErrorKind) : State :=
  s.respond k.status 0#16 s.epos

/-- What a `PUT` does with the unit's result when no error is latched (R105, R106, R107); `data` is the output unit as the
response carries it. -/
def State.putResult (s : State) : UnitResult OutUnit → State
  | .ok data => s.acceptUnit .okData data
  | .skip    => s.acceptUnit .okNoData 0#16
  | .err k   => s.raiseInCall k

/-- A decode result as the response's `data` carries it, `zext_16(byte)` (R49). -/
def UnitResult.zext16 : UnitResult Byte → UnitResult OutUnit
  | .ok b  => .ok (b.zeroExtend 16)
  | .skip  => .skip
  | .err k => .err k

/-- The operand of a `PUT` is legal: `data[20:8]` = 0 when `DIR` = 0, any value when `DIR` = 1 (R45). -/
def putLegal (dir : Direction) (u : CodePoint) : Bool :=
  match dir with
  | .enc => (byteOperand u).isSome
  | .dec => true

/-- The result of a `PUT`'s unit in a call of direction `dir` and style `st`: `EncUnit` of the byte `data[7:0]`, or
`DecUnit` of the code point `data[20:0]` (R45, R105 to R107). -/
def unitOf (g : Config) (dir : Direction) (st : Style) (u : CodePoint) : UnitResult OutUnit :=
  match dir with
  | .enc => encUnit g st (u.extractLsb' 0 8)
  | .dec => (decUnit g st u).zext16

/-- The context of a new call: all five registers (R103); the return from a latched error too, which restores nothing of
the old call (R144). -/
def State.startCall (s : State) (dir : Direction) (style : Style) : State :=
  { s with style := style, dir := dir, pos := 0#64, fault := none, epos := 0#64 }

/-- A reset event: every register takes its reset value (R160); parameters, pending inputs and responses given stay
(R161; log 4). -/
def State.resetRegisters (s : State) : State :=
  { s with style := .nlbb, dir := .enc, pos := 0#64, fault := none, epos := 0#64 }

/-- The last position, 2^64 - 1, at which a `PUT` without a latched error is refused (R13, R52). -/
def lastPosition : Position := BitVec.allOnes 64

end Sys2Proof.Machine
end

