-- ==== Sys2Proof/Machine/Bcd.lean ====
section
/-!
DEFINITION. The meanings of style `bcd` (43_bcd section 2), under the instance's `BCD_T_COL` and `BCD_MSB_ROW`.
-/

namespace Sys2Proof.Machine

/-- `ENC.bcd b` (R92): `DomainError` from 100 on. -/
def execEncBcd (b : Byte) (s : State) : Host.Outcome State Fault Refusal :=
  .next (s.answerEnc (bcdEncode s.cfg b))

/-- `DEC.bcd c` (R93): `DomainError` on a digit above 9. -/
def execDecBcd (c : CodePoint) (s : State) : Host.Outcome State Fault Refusal :=
  .next (s.answerDec (decodeChar s.cfg (bcdDecodeCell s.cfg) c))

end Sys2Proof.Machine
end

