-- ==== Sys2Proof/Machine/Direct.lean ====
section
/-!
DEFINITION. The meanings of style `direct` (41_direct).
-/

namespace Sys2Proof.Machine

/-- `ENC.direct b` (R70): the offset is the byte. -/
def execEncDirect (b : Byte) (s : State) : Host.Outcome State Fault Refusal :=
  .next (s.answerEnc (.ok (cellToCp b)))

/-- `DEC.direct c` (R71): the byte is the offset. -/
def execDecDirect (c : CodePoint) (s : State) : Host.Outcome State Fault Refusal :=
  .next (s.answerDec (decodeChar s.cfg (fun o => .ok o) c))

end Sys2Proof.Machine
end

