-- ==== Sys2Proof/Machine/NibbleColumn.lean ====
section
/-!
DEFINITION. The meanings of the four nibble-column styles (42_nibble_column section 4).
-/

namespace Sys2Proof.Machine

/-- The answer of an encode under (`msncol`, `msb`): `respond(OK_DATA, CellToCp(NibEnc(b, msncol, msb)), 0)` (R80 to R86). -/
def State.encNibble (s : State) (msncol : Column) (msb : MsbRow) (b : Byte) : State :=
  s.answerEnc (.ok (cellToCp (nibEnc b msncol msb)))

/-- `DEC_nibble(c, msncol, msb)` (section 4). -/
def State.decNibble (s : State) (msncol : Column) (msb : MsbRow) (c : CodePoint) : State :=
  s.answerDec (decodeChar s.cfg (fun o => .ok (nibDec o msncol msb)) c)

/-- `ENC.nlbb b` (R80): MSN column left, MSB row bottom. -/
def execEncNlbb (b : Byte) (s : State) : Host.Outcome State Fault Refusal :=
  .next (s.encNibble .left .bottom b)

/-- `DEC.nlbb c` (R81): MSN column left, MSB row bottom. -/
def execDecNlbb (c : CodePoint) (s : State) : Host.Outcome State Fault Refusal :=
  .next (s.decNibble .left .bottom c)

/-- `ENC.nlbt b` (R82): MSN column left, MSB row top. -/
def execEncNlbt (b : Byte) (s : State) : Host.Outcome State Fault Refusal :=
  .next (s.encNibble .left .top b)

/-- `DEC.nlbt c` (R83): MSN column left, MSB row top. -/
def execDecNlbt (c : CodePoint) (s : State) : Host.Outcome State Fault Refusal :=
  .next (s.decNibble .left .top c)

/-- `ENC.nrbb b` (R84): MSN column right, MSB row bottom. -/
def execEncNrbb (b : Byte) (s : State) : Host.Outcome State Fault Refusal :=
  .next (s.encNibble .right .bottom b)

/-- `DEC.nrbb c` (R85): MSN column right, MSB row bottom. -/
def execDecNrbb (c : CodePoint) (s : State) : Host.Outcome State Fault Refusal :=
  .next (s.decNibble .right .bottom c)

/-- `ENC.nrbt b` (R86): MSN column right, MSB row top. -/
def execEncNrbt (b : Byte) (s : State) : Host.Outcome State Fault Refusal :=
  .next (s.encNibble .right .top b)

/-- `DEC.nrbt c` (R87): MSN column right, MSB row top. -/
def execDecNrbt (c : CodePoint) (s : State) : Host.Outcome State Fault Refusal :=
  .next (s.decNibble .right .top c)

end Sys2Proof.Machine
end

