-- ==== Sys2Proof/Machine/Stream.lean ====
section
/-!
DEFINITION. The meanings of `START`, `PUT`, `STAT` (44_stream section 2).
-/

namespace Sys2Proof.Machine

/-- `START dir, style` (R103): all five registers, respond `(OK_NODATA, 0, 0)`. A reserved style code is refused and writes
nothing (R14). -/
def execStart (dir : Direction) (style : BitVec 3) (s : State) : Host.Outcome State Fault Refusal :=
  match Style.ofCode style with
  | some st => .next ((s.startCall dir st).respond .okNoData 0#16 0#64)
  | none => .refused (.reserved .styleCode)

/-- `PUT unit` (R104 to R107), its tests in the order of R141: the legality of the operand (R45), then the latched error,
then the last position (R13), then the unit itself. -/
def execPut (u : CodePoint) (s : State) : Host.Outcome State Fault Refusal :=
  if putLegal s.dir u then
    match s.fault with
    | some k => .next (s.repeatError k)
    | none =>
      if s.pos = lastPosition then .refused .positionsExhausted
      else .next (s.putResult (unitOf s.cfg s.dir s.style u))
  else .refused (.reserved .byteField)

/-- `STAT` (R108): the context, and `POS` with no error latched, else `EPOS` with the error's code. -/
def execStat (s : State) : Host.Outcome State Fault Refusal :=
  match s.fault with
  | none => .next (s.respond .okNoData (contextWord s.dir s.style) s.pos)
  | some k => .next (s.respond k.status (contextWord s.dir s.style) s.epos)

end Sys2Proof.Machine
end

