-- ==== Sys2Proof/Machine/Dispatch.lean ====
section
/-!
DEFINITION. One arm per instruction (30_encoding R41), each one call of its meaning.
-/

namespace Sys2Proof.Machine

def exec (i : Instr) (s : State) : Host.Outcome State Fault Refusal :=
  match i with
  | .encBcd b => Sys2Proof.Machine.execEncBcd b s
  | .encDirect b => Sys2Proof.Machine.execEncDirect b s
  | .encNlbb b => Sys2Proof.Machine.execEncNlbb b s
  | .encNlbt b => Sys2Proof.Machine.execEncNlbt b s
  | .encNrbb b => Sys2Proof.Machine.execEncNrbb b s
  | .encNrbt b => Sys2Proof.Machine.execEncNrbt b s
  | .decBcd c => Sys2Proof.Machine.execDecBcd c s
  | .decDirect c => Sys2Proof.Machine.execDecDirect c s
  | .decNlbb c => Sys2Proof.Machine.execDecNlbb c s
  | .decNlbt c => Sys2Proof.Machine.execDecNlbt c s
  | .decNrbb c => Sys2Proof.Machine.execDecNrbb c s
  | .decNrbt c => Sys2Proof.Machine.execDecNrbt c s
  | .start dir style => Sys2Proof.Machine.execStart dir style s
  | .put u => Sys2Proof.Machine.execPut u s
  | .stat => Sys2Proof.Machine.execStat s

end Sys2Proof.Machine
end

