-- ==== Sys2Proof/Machine/Request.lean ====
section
/-!
DEFINITION. Handling one event of the host (20_memory R34, R36): the pieces `step` is made of, and the placing of a request.
-/

namespace Sys2Proof.Machine

/-- Handle one request word: a reserved word has no step (R52), any other runs its instruction to its end (R33). -/
def State.handleRequest (s : State) (w : Request) : Host.Outcome State Fault Refusal :=
  match decode w with
  | .ok i => exec i s
  | .error why => .refused (.reserved why)

/-- Handle what the host presents next: a request or a reset (R34, R160). -/
def State.handleEvent (s : State) : HostEvent → Host.Outcome State Fault Refusal
  | .request w => s.handleRequest w
  | .reset => .next s.resetRegisters

/-- One transaction: take the oldest event the host has presented and handle it; with none, the block waits and nothing
changes (R34, R36; log 5). -/
def State.transact (s : State) : Host.Outcome State Fault Refusal :=
  match s.inputs with
  | [] => .next s
  | e :: rest => { s with inputs := rest }.handleEvent e

/-- The state with a request word presented next, before all other pending events. -/
def State.present (s : State) (w : Request) : State :=
  { s with inputs := .request w :: s.inputs }

end Sys2Proof.Machine
end

