-- ==== Sys2Proof/Machine/Step.lean ====
section
/-!
DEFINITION. One step is one transaction of the block: one request handled completely, or one reset (20_memory R33, R34;
70 R160; log 1, 5).
-/

namespace Sys2Proof.Machine

/-- One step. -/
def step (s : State) : Host.Outcome State Fault Refusal := s.transact

/-- The state with the instruction of bits `w` presented as the next request. A request is always a whole 32-bit word
(R40), so the bits above `nbits` are those of `w`, which are 0. -/
def State.withFetchWord (s : State) (nbits w : Nat) : State :=
  s.present (BitVec.ofNat 32 (w % 2 ^ nbits))

end Sys2Proof.Machine
end

