-- ==== Sys2Proof/Machine/Calls.lean ====
section
/-!
DEFINITION. Calls and their results (44_stream R110, R111) and the pseudo-instructions (30_encoding R54). These are facts
about the host's request sequence, not events in the block (R110): the step uses none of them.
-/

namespace Sys2Proof.Machine

/-- The result of a call: the output units in order, or the first error and the position of its unit (R111). -/
abbrev CallResult (α : Type) := Except (ErrorKind × Nat) (List α)

/-- The result of a call as a function of its input units alone, `f` the per-unit function and `j` the position of the
first unit: the error of the least unit that has one, else the `Ok` values in order, skips dropped (R111). -/
def callResult {α β : Type} (f : α → UnitResult β) : List α → Nat → CallResult β
  | [], _ => .ok []
  | u :: us, j =>
    match f u with
    | .err k => .error (k, j)
    | .skip => callResult f us (j + 1)
    | .ok v => (callResult f us (j + 1)).map (v :: ·)

/-- The output unit a response delivers: the `data` of an `OK_DATA` response (R111). -/
def Response.outUnit? (r : Response) : Option OutUnit :=
  if r.status = .okData then some r.data else none

/-- The responses to the `PUT`s among the instructions of a call, one response per instruction (R110: `STAT` and one-shot
commands may be interleaved, and their responses are no part of the result). -/
def putResponses : List Instr → List Response → List Response
  | i :: is, r :: rs => if i.putUnit?.isSome then r :: putResponses is rs else putResponses is rs
  | _, _ => []

/-- The result of a call as the host reads it: from the registers after the last `PUT`, and the responses to the call's
`PUT`s (R111). -/
def State.observedResult (s : State) (puts : List Response) : CallResult OutUnit :=
  match s.fault with
  | none => .ok (puts.filterMap Response.outUnit?)
  | some k => .error (k, s.epos.toNat)

/-- `ENCODE` and `DECODE`, with or without a style (R54). -/
inductive Pseudo where
  | encode (style : Option Style) (bytes : List Byte)
  | decode (style : Option Style) (chars : List CodePoint)
  deriving DecidableEq, Repr

/-- The source's default style, `nlbb` (R5, R54). -/
def defaultStyle : Style := .nlbb

/-- The expansion of a pseudo-instruction (R54). -/
def Pseudo.expand : Pseudo → List Instr
  | .encode st bs => .start .enc (st.getD defaultStyle).code :: bs.map (fun b => .put (b.zeroExtend 21))
  | .decode st cs => .start .dec (st.getD defaultStyle).code :: cs.map .put

end Sys2Proof.Machine
end

