-- ==== Sys2Proof/Machine/HostFormat.lean ====
section
/-!
DEFINITION. The reference formatter of the host (45_host_format), outside the block: wrapping, the host's `encode` and
`decode`, and the UTF-8 form of a Braille character. The step uses none of it (00_scope R3 (f); log 11).
-/

namespace Sys2Proof.Machine

/-- The host's line break, U+000A (R5, R121). -/
def lineBreak : CodePoint := 0x0A#21

/-- The host's indentation unit, U+0020 (R5, R121). -/
def indentUnit : CodePoint := 0x20#21

/-- What follows a character at index `k`: a line break and the indentation when `k + 1` is a multiple of `n` (R121). -/
def wrapSeparator (n indent k : Nat) : List CodePoint :=
  if (k + 1) % n = 0 then lineBreak :: List.replicate indent indentUnit else []

/-- The loop of `Wrap` from index `k` on (R121). -/
def wrapFrom (n indent : Nat) : List CodePoint → Nat → List CodePoint
  | [], _ => []
  | c :: cs, k => c :: (wrapSeparator n indent k ++ wrapFrom n indent cs (k + 1))

/-- `Wrap(chars, N, indent)` (R121); `N` = 0 inserts nothing. -/
def wrap (chars : List CodePoint) (n indent : Nat) : List CodePoint :=
  if n = 0 then chars else wrapFrom n indent chars 0

/-- The host's `encode(bytes, style, wrap_width, indent_width)` (R120): the result of the encode call, wrapped; on an error,
that error and no text. -/
def hostEncode (g : Config) (bytes : List Byte) (st : Style) (n indent : Nat) : CallResult CodePoint :=
  (callResult (encUnit g st) bytes 0).map (fun chars => wrap (chars.map (·.zeroExtend 21)) n indent)

/-- The host's `decode(text, style)` (R124): the result of the decode call over every code point of the text. -/
def hostDecode (g : Config) (text : List CodePoint) (st : Style) : CallResult Byte :=
  callResult (decUnit g st) text 0

/-- The host's defaults: style `nlbb`, wrap width 64, indent 0 (R5, R120). -/
def hostEncodeDefault (g : Config) (bytes : List Byte) : CallResult CodePoint :=
  hostEncode g bytes defaultStyle 64 0

/-- Text without the separators, as a host that strips them itself presents it (R124). -/
def stripSeparators (g : Config) (text : List CodePoint) : List CodePoint :=
  text.filter (fun c => !g.sep.contains c)

/-- The three UTF-8 bytes of the Braille character of an offset (R128). PRESUMED: general knowledge the spec marks as such
(93 G2), log 11. -/
def utf8OfOffset (o : Byte) : List Byte :=
  [0xE2#8, 0xA0#8 ||| o >>> 6, 0x80#8 ||| (o &&& 0x3F#8)]

end Sys2Proof.Machine
end

