-- ==== Sys2Proof/Safety.lean ====
section
/-!
DEFINITION. The terms claims are stated in: an instruction that answers and changes nothing else, the words the spec
reserves, a served request, and the invariant of 10_state section 4.
-/

namespace Sys2Proof.Machine

/-- The instruction completes with exactly one response and writes nothing else: no register, no parameter, no pending
input, no earlier response. -/
def Answers (i : Instr) (s : State) (status : Status) (data : OutUnit) (pos : Position) : Prop :=
  exec i s = .next { s with responses := s.responses ++ [{ status := status, data := data, pos := pos }] }

/-- The code point lies in the Braille Patterns block (R139). -/
abbrev Braille (c : CodePoint) : Prop := 0x2800 ≤ c.toNat ∧ c.toNat ≤ 0x28FF

/-- The three outcomes every one-shot decode has (R71, R81, R93): a Braille character of offset `o`, where `cell o` is what
is then the case; a separator, answered `(OK_NODATA, 0, 0)`; any other value, answered `(ERR_INVALID_CHAR, 0, 0)`. -/
def AnswersDecode (i : Instr) (c : CodePoint) (s : State) (cell : Byte → Prop) : Prop :=
  if Braille c then ∃ o : Byte, c.toNat = 0x2800 + o.toNat ∧ cell o
  else if c ∈ s.cfg.sep then Answers i s .okNoData 0#16 0#64
  else Answers i s .errInvalidChar 0#16 0#64

/-- The state with its pending events replaced. -/
def State.withInputs (s : State) (es : List HostEvent) : State := { s with inputs := es }

/-- The five registers of two states are equal (10_state section 2). -/
def SameRegisters (s t : State) : Prop :=
  t.style = s.style ∧ t.dir = s.dir ∧ t.pos = s.pos ∧ t.fault = s.fault ∧ t.epos = s.epos

/-- The request is reserved while the register `DIR` holds `dir`: the seven items of R50, in its words. -/
abbrev Reserved (w : Request) (dir : Direction) : Prop :=
  5#4 ≤ reqCmd w ∨
  reqRsv w ≠ 0#3 ∨
  (reqCmd w ≤ 2#4 ∧ 6#3 ≤ reqStyle w) ∨
  ((reqCmd w = 3#4 ∨ reqCmd w = 4#4) ∧ reqStyle w ≠ 0#3) ∨
  ((reqCmd w ≤ 1#4 ∨ reqCmd w = 3#4 ∨ reqCmd w = 4#4) ∧ reqDir w ≠ 0#1) ∨
  ((reqCmd w = 0#4 ∨ (reqCmd w = 3#4 ∧ dir = .enc)) ∧ (reqData w).extractLsb' 8 13 ≠ 0#13) ∨
  ((reqCmd w = 2#4 ∨ reqCmd w = 4#4) ∧ reqData w ≠ 0#21)

/-- The request is a well-formed `PUT` that finds no position left: `FAULT` = 0 and `POS` = 2^64 - 1 (R13, R52). -/
abbrev AtLastPosition (w : Request) (s : State) : Prop :=
  reqCmd w = 3#4 ∧ s.fault = none ∧ s.pos.toNat = 2 ^ 64 - 1

/-- The next event begins a call: a reset, or a `START` (R110). -/
def BeginsCall (s : State) : Prop :=
  ∃ e rest, s.inputs = e :: rest ∧
    (e = .reset ∨ ∃ w dir code, e = .request w ∧ decode w = .ok (.start dir code))

/-- The invariant of 10_state section 4, with the constraints of R140 on the separator set: `FAULT` = 0 implies `EPOS` = 0;
`FAULT` not 0 implies `EPOS` = `POS`; only style `bcd` latches `DomainError`; only decoding latches
`InvalidCharacterError`. (`STYLE` in 0..5 and `FAULT` in 0, 2, 3 are the types of the registers: log 6.) -/
def State.Inv (s : State) : Prop :=
  s.cfg.wf = true ∧
  (s.fault = none → s.epos = 0#64) ∧
  (s.fault ≠ none → s.epos = s.pos) ∧
  (s.fault = some .domainError → s.style = .bcd) ∧
  (s.fault = some .invalidCharacterError → s.dir = .dec)

end Sys2Proof.Machine
end

