-- ==== Sys2Proof/Certificates/Slice0/Obligations.lean ====
section
/-!
DEFINITION. The statements for the provers, from the numbered rules of spec/. Each docstring names the rule.
-/

open Sys2Proof Sys2Proof.Machine

/-! ### Encoding (30_encoding) -/

/-- The worked encodings of 30_encoding section 8, read as the instructions beside them. -/
def Obligations.WorkedWordsDecode : Prop :=
  decode 0x04000048#32 = .ok (.encNlbb 0x48#8) ∧
  decode 0x00000064#32 = .ok (.encBcd 100#8) ∧
  decode 0x14002884#32 = .ok (.decNlbb 0x2884#21) ∧
  decode 0x1200000A#32 = .ok (.decDirect 0x0A#21) ∧
  decode 0x24000000#32 = .ok (.start .enc 2#3) ∧
  decode 0x21000000#32 = .ok (.start .dec 0#3) ∧
  decode 0x2B000000#32 = .ok (.start .dec 5#3) ∧
  decode 0x30002884#32 = .ok (.put 0x2884#21) ∧
  decode 0x40000000#32 = .ok .stat ∧
  decode 0x50000000#32 = .error .cmd ∧
  decode 0x0C000000#32 = .error .styleCode ∧
  decode 0x04000100#32 = .error .byteField

/-- Decoding the word of any well-formed instruction gives it back, with every operand (R40, R42, R53). -/
def Obligations.DecodeEncodeRoundTrip : Prop :=
  ∀ i : Instr, i.wf = true → decode (encode i) = .ok i

/-- Every word that decodes is the one word of its instruction, which is well formed (R40, R42). -/
def Obligations.DecodedWordIsItsEncoding : Prop :=
  ∀ (w : Request) (i : Instr), decode w = .ok i → i.wf = true ∧ encode i = w

/-- R43: the decoder reads a word as the instruction of the row it selects; the rows are disjoint; a word that selects no
row under the direction register (the operand condition of `PUT`) is reserved, and only such a word. -/
def Obligations.MatchMaskTableDecides : Prop :=
  ∀ w : Request,
    (∀ r ∈ requestTable, r.selects w = true ↔ ∃ i, decode w = .ok i ∧ i.mnemonic = r.mnemonic) ∧
    (∀ r₁ ∈ requestTable, ∀ r₂ ∈ requestTable, r₁.selects w = true → r₂.selects w = true → r₁ = r₂) ∧
    (∀ dir : Direction, Reserved w dir ↔
      ∀ r ∈ requestTable, r.selects w = true → r.mnemonic = "PUT" ∧ putLegal dir (reqData w) = false)

/-! ### The step -/

/-- A step at a state whose next event is a request runs the instruction its word decodes to, with that event taken from
the pending ones, and adds nothing around it; and `withFetchWord` presents such a request (R33, R36; log 1). -/
def Obligations.StepRunsDecodedInstruction : Prop :=
  (∀ (s : State) (w : Request) (rest : List HostEvent) (i : Instr),
    s.inputs = .request w :: rest → decode w = .ok i → step s = exec i { s with inputs := rest }) ∧
  (∀ (s : State) (w : Nat) (i : Instr),
    w < 2 ^ 32 → decode (BitVec.ofNat 32 w) = .ok i → step (s.withFetchWord 32 w) = exec i s)

/-- With nothing presented, a step changes nothing (the model's choice: log 5). -/
def Obligations.IdleStepChangesNothing : Prop :=
  ∀ s : State, s.inputs = [] → step s = .next s

/-- R160, R161: a reset event, whatever is pending after it and whatever the registers held, writes every register the
block has; the parameters are not touched, and every one-shot command answers after it as before. -/
def Obligations.ResetEventWritesRegisters : Prop :=
  ∀ (s : State) (rest : List HostEvent), s.inputs = .reset :: rest →
    ∃ t, step s = .next t ∧
      t.style.code = 2#3 ∧ t.dir.code = 0#1 ∧ t.pos = 0#64 ∧ faultCode t.fault = 0#2 ∧ t.epos = 0#64 ∧
      t.cfg = s.cfg ∧
      (∀ (i : Instr) (st : Status) (d : OutUnit), i.isOneShot = true → (Answers i s st d 0#64 ↔ Answers i t st d 0#64))

/-- The events pending after a reset and the responses given before it stay (the model's choice: log 4). -/
def Obligations.ResetEventKeepsPorts : Prop :=
  ∀ (s t : State) (rest : List HostEvent), s.inputs = .reset :: rest → step s = .next t →
    t.inputs = rest ∧ t.responses = s.responses

/-- R17: the registers after reset, with any parameters; and `START` with `dir` = 0 and `style` = 2 leaves the same. -/
def Obligations.ResetValuesAreStartEncNlbb : Prop :=
  ∀ g : Config, (State.resetWith g).style.code = 2#3 ∧ (State.resetWith g).dir.code = 0#1 ∧
    (State.resetWith g).pos = 0#64 ∧ faultCode (State.resetWith g).fault = 0#2 ∧ (State.resetWith g).epos = 0#64 ∧
    (∀ s : State, ∃ t, exec (.start .enc 2#3) s = .next t ∧ SameRegisters (State.resetWith g) t)

/-- R50, R52: a request has no step exactly when it is reserved under the register `DIR`, or is a `PUT` at the last
position without a latched error; every other request gives a next state. -/
def Obligations.StepRefusesExactlyReserved : Prop :=
  ∀ (s : State) (w : Request) (rest : List HostEvent), s.inputs = .request w :: rest →
    ((Reserved w s.dir ∨ AtLastPosition w s) → ∃ r, step s = .refused r) ∧
    (¬ Reserved w s.dir → ¬ AtLastPosition w s → ∃ t, step s = .next t)

/-- R47: every legal request gives exactly one response, after the earlier ones; packed, the record has `status` in bits
81:80, `data` in 79:64, `pos` in 63:0. -/
def Obligations.OneResponsePerRequest : Prop :=
  (∀ (s : State) (w : Request) (rest : List HostEvent), s.inputs = .request w :: rest →
    ¬ Reserved w s.dir → ¬ AtLastPosition w s →
    ∃ t r, step s = .next t ∧ t.responses = s.responses ++ [r]) ∧
  (∀ r : Response, r.pack.extractLsb' 80 2 = r.status.code ∧ r.pack.extractLsb' 64 16 = r.data ∧
    r.pack.extractLsb' 0 64 = r.pos)

/-! ### Style `direct` (41_direct) -/

/-- R70: operand and encoding, the answer 0x2800 + b for every byte, and no register written. -/
def Obligations.EncDirectAnswers : Prop :=
  (∀ w : Request, w &&& 0xFFFFFF00#32 = 0x02000000#32 → decode w = .ok (.encDirect (w.extractLsb' 0 8))) ∧
  (∀ (b : Byte) (s : State), ∃ cp : OutUnit, cp.toNat = 0x2800 + b.toNat ∧ Answers (.encDirect b) s .okData cp 0#64)

/-- R71: operand and encoding; a Braille character answers its offset, a separator nothing, any other value the error. -/
def Obligations.DecDirectAnswers : Prop :=
  (∀ w : Request, w &&& 0xFFE00000#32 = 0x12000000#32 → decode w = .ok (.decDirect (w.extractLsb' 0 21))) ∧
  (∀ (c : CodePoint) (s : State), AnswersDecode (.decDirect c) c s fun o =>
    Answers (.decDirect c) s .okData (o.zeroExtend 16) 0#64)

/-! ### The nibble-column styles (42_nibble_column) -/

/-- R80, bit by bit: `offset[6]=b[7]`, `offset[2]=b[6]`, `offset[1]=b[5]`, `offset[0]=b[4]`, `offset[7]=b[3]`,
`offset[5]=b[2]`, `offset[4]=b[1]`, `offset[3]=b[0]`; every byte, no register written. -/
def Obligations.EncNlbbAnswers : Prop :=
  (∀ w : Request, w &&& 0xFFFFFF00#32 = 0x04000000#32 → decode w = .ok (.encNlbb (w.extractLsb' 0 8))) ∧
  (∀ (b : Byte) (s : State), ∃ (cp : OutUnit) (o : Byte), cp.toNat = 0x2800 + o.toNat ∧
    Answers (.encNlbb b) s .okData cp 0#64 ∧
    o.getLsbD 6 = b.getLsbD 7 ∧ o.getLsbD 2 = b.getLsbD 6 ∧ o.getLsbD 1 = b.getLsbD 5 ∧ o.getLsbD 0 = b.getLsbD 4 ∧
    o.getLsbD 7 = b.getLsbD 3 ∧ o.getLsbD 5 = b.getLsbD 2 ∧ o.getLsbD 4 = b.getLsbD 1 ∧ o.getLsbD 3 = b.getLsbD 0)

/-- R82, bit by bit. -/
def Obligations.EncNlbtAnswers : Prop :=
  (∀ w : Request, w &&& 0xFFFFFF00#32 = 0x06000000#32 → decode w = .ok (.encNlbt (w.extractLsb' 0 8))) ∧
  (∀ (b : Byte) (s : State), ∃ (cp : OutUnit) (o : Byte), cp.toNat = 0x2800 + o.toNat ∧
    Answers (.encNlbt b) s .okData cp 0#64 ∧
    o.getLsbD 0 = b.getLsbD 7 ∧ o.getLsbD 1 = b.getLsbD 6 ∧ o.getLsbD 2 = b.getLsbD 5 ∧ o.getLsbD 6 = b.getLsbD 4 ∧
    o.getLsbD 3 = b.getLsbD 3 ∧ o.getLsbD 4 = b.getLsbD 2 ∧ o.getLsbD 5 = b.getLsbD 1 ∧ o.getLsbD 7 = b.getLsbD 0)

/-- R84, bit by bit. -/
def Obligations.EncNrbbAnswers : Prop :=
  (∀ w : Request, w &&& 0xFFFFFF00#32 = 0x08000000#32 → decode w = .ok (.encNrbb (w.extractLsb' 0 8))) ∧
  (∀ (b : Byte) (s : State), ∃ (cp : OutUnit) (o : Byte), cp.toNat = 0x2800 + o.toNat ∧
    Answers (.encNrbb b) s .okData cp 0#64 ∧
    o.getLsbD 7 = b.getLsbD 7 ∧ o.getLsbD 5 = b.getLsbD 6 ∧ o.getLsbD 4 = b.getLsbD 5 ∧ o.getLsbD 3 = b.getLsbD 4 ∧
    o.getLsbD 6 = b.getLsbD 3 ∧ o.getLsbD 2 = b.getLsbD 2 ∧ o.getLsbD 1 = b.getLsbD 1 ∧ o.getLsbD 0 = b.getLsbD 0)

/-- R86, bit by bit. -/
def Obligations.EncNrbtAnswers : Prop :=
  (∀ w : Request, w &&& 0xFFFFFF00#32 = 0x0A000000#32 → decode w = .ok (.encNrbt (w.extractLsb' 0 8))) ∧
  (∀ (b : Byte) (s : State), ∃ (cp : OutUnit) (o : Byte), cp.toNat = 0x2800 + o.toNat ∧
    Answers (.encNrbt b) s .okData cp 0#64 ∧
    o.getLsbD 3 = b.getLsbD 7 ∧ o.getLsbD 4 = b.getLsbD 6 ∧ o.getLsbD 5 = b.getLsbD 5 ∧ o.getLsbD 7 = b.getLsbD 4 ∧
    o.getLsbD 0 = b.getLsbD 3 ∧ o.getLsbD 1 = b.getLsbD 2 ∧ o.getLsbD 2 = b.getLsbD 1 ∧ o.getLsbD 6 = b.getLsbD 0)

/-- R81, bit by bit: `b[7]=o[6]`, `b[6]=o[2]`, `b[5]=o[1]`, `b[4]=o[0]`, `b[3]=o[7]`, `b[2]=o[5]`, `b[1]=o[4]`,
`b[0]=o[3]`. -/
def Obligations.DecNlbbAnswers : Prop :=
  (∀ w : Request, w &&& 0xFFE00000#32 = 0x14000000#32 → decode w = .ok (.decNlbb (w.extractLsb' 0 21))) ∧
  (∀ (c : CodePoint) (s : State), AnswersDecode (.decNlbb c) c s fun o =>
    ∃ b : Byte, Answers (.decNlbb c) s .okData (b.zeroExtend 16) 0#64 ∧
    b.getLsbD 7 = o.getLsbD 6 ∧ b.getLsbD 6 = o.getLsbD 2 ∧ b.getLsbD 5 = o.getLsbD 1 ∧ b.getLsbD 4 = o.getLsbD 0 ∧
    b.getLsbD 3 = o.getLsbD 7 ∧ b.getLsbD 2 = o.getLsbD 5 ∧ b.getLsbD 1 = o.getLsbD 4 ∧ b.getLsbD 0 = o.getLsbD 3)

/-- R83, bit by bit. -/
def Obligations.DecNlbtAnswers : Prop :=
  (∀ w : Request, w &&& 0xFFE00000#32 = 0x16000000#32 → decode w = .ok (.decNlbt (w.extractLsb' 0 21))) ∧
  (∀ (c : CodePoint) (s : State), AnswersDecode (.decNlbt c) c s fun o =>
    ∃ b : Byte, Answers (.decNlbt c) s .okData (b.zeroExtend 16) 0#64 ∧
    b.getLsbD 7 = o.getLsbD 0 ∧ b.getLsbD 6 = o.getLsbD 1 ∧ b.getLsbD 5 = o.getLsbD 2 ∧ b.getLsbD 4 = o.getLsbD 6 ∧
    b.getLsbD 3 = o.getLsbD 3 ∧ b.getLsbD 2 = o.getLsbD 4 ∧ b.getLsbD 1 = o.getLsbD 5 ∧ b.getLsbD 0 = o.getLsbD 7)

/-- R85, bit by bit. -/
def Obligations.DecNrbbAnswers : Prop :=
  (∀ w : Request, w &&& 0xFFE00000#32 = 0x18000000#32 → decode w = .ok (.decNrbb (w.extractLsb' 0 21))) ∧
  (∀ (c : CodePoint) (s : State), AnswersDecode (.decNrbb c) c s fun o =>
    ∃ b : Byte, Answers (.decNrbb c) s .okData (b.zeroExtend 16) 0#64 ∧
    b.getLsbD 7 = o.getLsbD 7 ∧ b.getLsbD 6 = o.getLsbD 5 ∧ b.getLsbD 5 = o.getLsbD 4 ∧ b.getLsbD 4 = o.getLsbD 3 ∧
    b.getLsbD 3 = o.getLsbD 6 ∧ b.getLsbD 2 = o.getLsbD 2 ∧ b.getLsbD 1 = o.getLsbD 1 ∧ b.getLsbD 0 = o.getLsbD 0)

/-- R87, bit by bit. -/
def Obligations.DecNrbtAnswers : Prop :=
  (∀ w : Request, w &&& 0xFFE00000#32 = 0x1A000000#32 → decode w = .ok (.decNrbt (w.extractLsb' 0 21))) ∧
  (∀ (c : CodePoint) (s : State), AnswersDecode (.decNrbt c) c s fun o =>
    ∃ b : Byte, Answers (.decNrbt c) s .okData (b.zeroExtend 16) 0#64 ∧
    b.getLsbD 7 = o.getLsbD 3 ∧ b.getLsbD 6 = o.getLsbD 4 ∧ b.getLsbD 5 = o.getLsbD 5 ∧ b.getLsbD 4 = o.getLsbD 7 ∧
    b.getLsbD 3 = o.getLsbD 0 ∧ b.getLsbD 2 = o.getLsbD 1 ∧ b.getLsbD 1 = o.getLsbD 2 ∧ b.getLsbD 0 = o.getLsbD 6)

/-! ### Style `bcd` (43_bcd) -/

/-- R92, under every setting of the parameters: operand and encoding; `DomainError` from 100 on; else the tens digit in the
column `BCD_T_COL` and the units digit in the other. -/
def Obligations.EncBcdAnswers : Prop :=
  (∀ w : Request, w &&& 0xFFFFFF00#32 = 0x00000000#32 → decode w = .ok (.encBcd (w.extractLsb' 0 8))) ∧
  (∀ (b : Byte) (s : State),
    if 100 ≤ b.toNat then Answers (.encBcd b) s .errDomain 0#16 0#64
    else ∃ (cp : OutUnit) (t u : Nibble), t.toNat = b.toNat / 10 ∧ u.toNat = b.toNat % 10 ∧
      cp.toNat = 0x2800 +
        (place t s.cfg.bcdTCol s.cfg.bcdMsbRow ||| place u (otherColumn s.cfg.bcdTCol) s.cfg.bcdMsbRow).toNat ∧
      Answers (.encBcd b) s .okData cp 0#64)

/-- R93, under every setting of the parameters: a digit above 9 is a `DomainError`, digit by digit; else the value. Of the
256 cells exactly 100 have a value. -/
def Obligations.DecBcdAnswers : Prop :=
  (∀ w : Request, w &&& 0xFFE00000#32 = 0x10000000#32 → decode w = .ok (.decBcd (w.extractLsb' 0 21))) ∧
  (∀ (c : CodePoint) (s : State), AnswersDecode (.decBcd c) c s fun o =>
    let t := (extract o s.cfg.bcdTCol s.cfg.bcdMsbRow).toNat
    let u := (extract o (otherColumn s.cfg.bcdTCol) s.cfg.bcdMsbRow).toNat
    if 9 < t ∨ 9 < u then Answers (.decBcd c) s .errDomain 0#16 0#64
    else ∃ d : OutUnit, d.toNat = 10 * t + u ∧ d.toNat ≤ 99 ∧ Answers (.decBcd c) s .okData d 0#64) ∧
  (∀ g : Config, ((List.range 256).filter fun o =>
    bcdDecodeCell g (BitVec.ofNat 8 o) ≠ .err .domainError).length = 100)

/-- R91: the style is the nibble-column style of its parameters on the packed value, whose nibbles are at most 9; with the
default parameters `ENC.bcd v` answers as `ENC.nlbb Pack(v)`. -/
def Obligations.BcdIsNibbleColumnOfPack : Prop :=
  (∀ (g : Config) (v : Byte), v.toNat ≤ 99 →
    (msn (bcdPack v)).toNat = v.toNat / 10 ∧ (lsn (bcdPack v)).toNat = v.toNat % 10 ∧
    bcdEncode g v = .ok (cellToCp (nibEnc (bcdPack v) g.bcdTCol g.bcdMsbRow))) ∧
  (∀ (s : State) (v : Byte), v.toNat ≤ 99 → s.cfg.bcdTCol = .left → s.cfg.bcdMsbRow = .bottom →
    exec (.encBcd v) s = exec (.encNlbb (bcdPack v)) s)

/-! ### Cells, columns and units -/

/-- R65: the code point of a cell and the cell of a code point are inverse to each other on the block, in both spellings
of the rule, and no other code point has a cell. -/
def Obligations.CellCodePointInverse : Prop :=
  (∀ o : Byte, (cellToCp o).toNat = 0x2800 + o.toNat ∧ cellToCp o = 0x2800#16 ||| o.zeroExtend 16 ∧
    cpToCell ((cellToCp o).zeroExtend 21) = some o) ∧
  (∀ (c : CodePoint) (o : Byte), cpToCell c = some o ↔ (Braille c ∧ o.toNat = c.toNat - 0x2800)) ∧
  (∀ c : CodePoint, Braille c → cpToCell c = some (c.extractLsb' 0 8))

/-- R76, R77: `Place` puts nibble bit `k` on the dot of its row and column and touches no bit outside the column's mask;
`Extract` reads it there; and `Extract` undoes `Place` whatever the other column holds. -/
def Obligations.PlaceAndExtractByDots : Prop :=
  (∀ (n : Nibble) (col : Column) (msb : MsbRow) (k : Fin 4),
    (place n col msb).getLsbD (offsetBitFor col (rowOf k msb)).val = n.getLsbD k.val) ∧
  (∀ (n : Nibble) (col : Column) (msb : MsbRow), place n col msb &&& columnMask col = place n col msb) ∧
  (∀ (o : Byte) (col : Column) (msb : MsbRow) (k : Fin 4),
    (extract o col msb).getLsbD k.val = o.getLsbD (offsetBitFor col (rowOf k msb)).val) ∧
  (∀ (n : Nibble) (x : Byte) (col : Column) (msb : MsbRow), x &&& columnMask col = 0#8 →
    extract (place n col msb ||| x) col msb = n)

/-- R79: `NibDec` reassembles the two nibbles and is the inverse of `NibEnc` on every byte and every offset. -/
def Obligations.NibbleDecodeInvertsEncode : Prop :=
  (∀ (o : Byte) (col : Column) (msb : MsbRow),
    (nibDec o col msb).toNat = 16 * (extract o col msb).toNat + (extract o (otherColumn col) msb).toNat) ∧
  (∀ (b : Byte) (col : Column) (msb : MsbRow), nibDec (nibEnc b col msb) col msb = b) ∧
  (∀ (o : Byte) (col : Column) (msb : MsbRow), nibEnc (nibDec o col msb) col msb = o)

/-- R72, R88: each of the five styles other than `bcd` is a bijection between the bytes and the Braille characters, its two
commands inverse to each other; the four nibble-column styles differ at byte 0x48. -/
def Obligations.FullStylesAreBijections : Prop :=
  (∀ (s : State) (st : Style), st ≠ .bcd →
    (∀ b : Byte, ∃ cp : OutUnit, Answers (.encOf st b) s .okData cp 0#64 ∧
      Answers (.decOf st (cp.zeroExtend 21)) s .okData (b.zeroExtend 16) 0#64) ∧
    (∀ c : CodePoint, Braille c → ∃ b : Byte, Answers (.decOf st c) s .okData (b.zeroExtend 16) 0#64 ∧
      Answers (.encOf st b) s .okData (c.truncate 16) 0#64)) ∧
  (∀ (g : Config) (st₁ st₂ : Style), st₁ ≠ .bcd → st₁ ≠ .direct → st₂ ≠ .bcd → st₂ ≠ .direct →
    encUnit g st₁ 0x48#8 = encUnit g st₂ 0x48#8 → st₁ = st₂)

/-- R94: `bcd` is a bijection between 0..99 and a set of 100 Braille characters, under every setting, and `DEC.bcd` raises
`DomainError` on the other 156. -/
def Obligations.BcdIsABijection : Prop :=
  (∀ g : Config, ((List.range 256).filter fun o =>
    bcdDecodeCell g (BitVec.ofNat 8 o) = .err .domainError).length = 156) ∧
  ∀ s : State,
    (∀ c : CodePoint, Braille c → (∃ d : OutUnit, Answers (.decBcd c) s .okData d 0#64) ∨
      Answers (.decBcd c) s .errDomain 0#16 0#64) ∧
    (∀ b : Byte, b.toNat ≤ 99 → ∃ cp : OutUnit, Answers (.encBcd b) s .okData cp 0#64 ∧
      Answers (.decBcd (cp.zeroExtend 21)) s .okData (b.zeroExtend 16) 0#64) ∧
    (∀ (c : CodePoint) (d : OutUnit), Braille c → Answers (.decBcd c) s .okData d 0#64 →
      d.toNat ≤ 99 ∧ Answers (.encBcd (d.truncate 8)) s .okData (c.truncate 16) 0#64)

/-- R101: `EncUnit`, style by style, and that the one-shot `ENC.<style>` computes exactly it. -/
def Obligations.EncUnitIsOneShotEncode : Prop :=
  (∀ (g : Config) (b : Byte),
    encUnit g .bcd b = (if 100 ≤ b.toNat then .err .domainError
      else .ok (cellToCp (nibEnc (bcdPack b) g.bcdTCol g.bcdMsbRow))) ∧
    encUnit g .direct b = .ok (cellToCp b) ∧
    encUnit g .nlbb b = .ok (cellToCp (nibEnc b .left .bottom)) ∧
    encUnit g .nlbt b = .ok (cellToCp (nibEnc b .left .top)) ∧
    encUnit g .nrbb b = .ok (cellToCp (nibEnc b .right .bottom)) ∧
    encUnit g .nrbt b = .ok (cellToCp (nibEnc b .right .top))) ∧
  (∀ (s : State) (st : Style) (b : Byte),
    match encUnit s.cfg st b with
    | .ok cp => Answers (.encOf st b) s .okData cp 0#64 ∧ Braille (cp.zeroExtend 21)
    | .skip => False
    | .err k => k = .domainError ∧ Answers (.encOf st b) s .errDomain 0#16 0#64)

/-- R102: `DecUnit`, class by class and style by style, and that the one-shot `DEC.<style>` computes exactly it. -/
def Obligations.DecUnitIsOneShotDecode : Prop :=
  (∀ (g : Config) (st : Style) (c : CodePoint), ¬ Braille c →
    decUnit g st c = if c ∈ g.sep then .skip else .err .invalidCharacterError) ∧
  (∀ (g : Config) (c : CodePoint) (o : Byte), c.toNat = 0x2800 + o.toNat →
    decUnit g .bcd c = (
      if 9 < (msn (nibDec o g.bcdTCol g.bcdMsbRow)).toNat ∨ 9 < (lsn (nibDec o g.bcdTCol g.bcdMsbRow)).toNat then
        .err .domainError
      else .ok (BitVec.ofNat 8 (10 * (msn (nibDec o g.bcdTCol g.bcdMsbRow)).toNat +
        (lsn (nibDec o g.bcdTCol g.bcdMsbRow)).toNat))) ∧
    decUnit g .direct c = .ok o ∧
    decUnit g .nlbb c = .ok (nibDec o .left .bottom) ∧
    decUnit g .nlbt c = .ok (nibDec o .left .top) ∧
    decUnit g .nrbb c = .ok (nibDec o .right .bottom) ∧
    decUnit g .nrbt c = .ok (nibDec o .right .top)) ∧
  (∀ (s : State) (st : Style) (c : CodePoint),
    match decUnit s.cfg st c with
    | .ok b => Answers (.decOf st c) s .okData (b.zeroExtend 16) 0#64
    | .skip => Answers (.decOf st c) s .okNoData 0#16 0#64
    | .err .domainError => Answers (.decOf st c) s .errDomain 0#16 0#64
    | .err .invalidCharacterError => Answers (.decOf st c) s .errInvalidChar 0#16 0#64)

/-- R136, R137, R138: exactly when each kind of error is raised, on encode and on decode, in every style. -/
def Obligations.ErrorsRaisedExactly : Prop :=
  (∀ (g : Config) (st : Style) (b : Byte) (k : ErrorKind),
    encUnit g st b = .err k ↔ (k = .domainError ∧ st = .bcd ∧ 100 ≤ b.toNat)) ∧
  (∀ (g : Config) (st : Style) (c : CodePoint),
    decUnit g st c = .err .domainError ↔
      (st = .bcd ∧ ∃ o : Byte, c.toNat = 0x2800 + o.toNat ∧
        (9 < (extract o g.bcdTCol g.bcdMsbRow).toNat ∨ 9 < (extract o (otherColumn g.bcdTCol) g.bcdMsbRow).toNat))) ∧
  (∀ (g : Config) (st : Style) (c : CodePoint),
    decUnit g st c = .err .invalidCharacterError ↔ (¬ Braille c ∧ c ∉ g.sep))

/-- R139: the three classes, on all 2^21 values; under the constraints of R140 they are disjoint as the rule lists them. -/
def Obligations.ClassifyIsTotalAndDisjoint : Prop :=
  (∀ (g : Config) (c : CodePoint),
    (∀ o : Byte, classify g c = .braille o ↔ c.toNat = 0x2800 + o.toNat) ∧
    ((∃ o, classify g c = .braille o) ↔ Braille c) ∧
    (classify g c = .separator ↔ (¬ Braille c ∧ c ∈ g.sep)) ∧
    (classify g c = .invalid ↔ (¬ Braille c ∧ c ∉ g.sep))) ∧
  (∀ (g : Config) (c : CodePoint), g.wf = true → c ∈ g.sep → classify g c = .separator)

/-! ### One-shot commands -/

/-- R10: a one-shot command answers every request, the same in any two states with the same parameters, with `pos` = 0, and
writes no register. -/
def Obligations.OneShotIgnoresRegisters : Prop :=
  ∀ (i : Instr) (s₁ s₂ : State), i.isOneShot = true → s₁.cfg = s₂.cfg →
    ∃ st d, Answers i s₁ st d 0#64 ∧ Answers i s₂ st d 0#64

/-! ### The stream sequencer (44_stream) -/

/-- R103: operands and encoding; `START` writes all five registers and answers `(OK_NODATA, 0, 0)` in every state, with or
without a latched error; two equal `START`s in a row leave the registers of one. -/
def Obligations.StartWritesAllRegisters : Prop :=
  (∀ w : Request, w &&& 0xF0FFFFFF#32 = 0x20000000#32 → reqStyle w ≤ 5#3 →
    decode w = .ok (.start (Direction.ofCode (w.extractLsb' 24 1)) (w.extractLsb' 25 3))) ∧
  (∀ (dir : Direction) (st : Style) (s : State),
    exec (.start dir st.code) s = .next { s with
      style := st, dir := dir, pos := 0#64, fault := none, epos := 0#64,
      responses := s.responses ++ [{ status := .okNoData, data := 0#16, pos := 0#64 }] }) ∧
  (∀ (dir : Direction) (code : BitVec 3) (s t u : State),
    exec (.start dir code) s = .next t → exec (.start dir code) t = .next u → SameRegisters t u)

/-- R14: `STYLE` and `DIR` change only with a `START` or a reset, and `START` with a reserved style code is refused. -/
def Obligations.ContextChangesOnlyByStart : Prop :=
  (∀ s t : State, step s = .next t → (t.style ≠ s.style ∨ t.dir ≠ s.dir) → BeginsCall s) ∧
  (∀ (dir : Direction) (code : BitVec 3) (s : State), 6#3 ≤ code →
    exec (.start dir code) s = .refused (.reserved .styleCode)) ∧
  (∀ (dir : Direction) (st : Style) (s : State), ∃ t, exec (.start dir st.code) s = .next t ∧ t.style = st ∧ t.dir = dir)

/-- R18: what a `START` leaves does not depend on the registers before it. -/
def Obligations.StartForgetsTheOldCall : Prop :=
  ∀ (dir : Direction) (code : BitVec 3) (s₁ s₂ : State),
    s₁.cfg = s₂.cfg → s₁.inputs = s₂.inputs → s₁.responses = s₂.responses →
    exec (.start dir code) s₁ = exec (.start dir code) s₂

/-- R104: with an error latched, a legal `PUT` in any state and of any unit answers `(FAULT, 0, EPOS)` and writes nothing. -/
def Obligations.PutRepeatsLatchedError : Prop :=
  ∀ (s : State) (u : CodePoint) (k : ErrorKind), s.fault = some k → (s.dir = .enc → u.toNat < 256) →
    ∃ st, st.code = faultCode s.fault ∧ Answers (.put u) s st 0#16 s.epos

/-- R105: a byte in the domain is accepted: its output unit and position leave, `POS` advances, nothing else is written;
for the styles other than `bcd` that is every byte. -/
def Obligations.PutAcceptsByteInDomain : Prop :=
  (∀ (s : State) (b : Byte) (cp : OutUnit), s.fault = none → s.dir = .enc → s.pos.toNat < 2 ^ 64 - 1 →
    encUnit s.cfg s.style b = .ok cp →
    exec (.put (b.zeroExtend 21)) s = .next { s with
      pos := s.pos + 1#64, responses := s.responses ++ [{ status := .okData, data := cp, pos := s.pos }] }) ∧
  (∀ (g : Config) (st : Style) (b : Byte), (st ≠ .bcd ∨ b.toNat ≤ 99) → ∃ cp, encUnit g st b = .ok cp)

/-- R106: a byte of 100 or more in an encode call of style `bcd` latches `DomainError` and its position; no other byte has
an error; `POS` and everything else stay. -/
def Obligations.PutLatchesDomainError : Prop :=
  (∀ (s : State) (b : Byte), s.fault = none → s.dir = .enc → s.pos.toNat < 2 ^ 64 - 1 →
    s.style = .bcd → 100 ≤ b.toNat →
    exec (.put (b.zeroExtend 21)) s = .next { s with
      fault := some .domainError, epos := s.pos,
      responses := s.responses ++ [{ status := .errDomain, data := 0#16, pos := s.pos }] }) ∧
  (∀ (g : Config) (st : Style) (b : Byte),
    encUnit g st b = .err .domainError ↔ (st = .bcd ∧ 100 ≤ b.toNat))

/-- R107: the four outcomes of a `PUT` in a decode call without a latched error, for every code point; and when each error is
raised. -/
def Obligations.PutDecodesCodePoint : Prop :=
  (∀ (g : Config) (st : Style) (c : CodePoint),
    (decUnit g st c = .err .invalidCharacterError ↔ (¬ Braille c ∧ c ∉ g.sep)) ∧
    (decUnit g st c = .err .domainError → st = .bcd ∧ Braille c)) ∧
  ∀ (s : State) (c : CodePoint), s.fault = none → s.dir = .dec → s.pos.toNat < 2 ^ 64 - 1 →
    match decUnit s.cfg s.style c with
    | .ok b => exec (.put c) s = .next { s with
        pos := s.pos + 1#64,
        responses := s.responses ++ [{ status := .okData, data := b.zeroExtend 16, pos := s.pos }] }
    | .skip => exec (.put c) s = .next { s with
        pos := s.pos + 1#64, responses := s.responses ++ [{ status := .okNoData, data := 0#16, pos := s.pos }] }
    | .err .domainError => exec (.put c) s = .next { s with
        fault := some .domainError, epos := s.pos,
        responses := s.responses ++ [{ status := .errDomain, data := 0#16, pos := s.pos }] }
    | .err .invalidCharacterError => exec (.put c) s = .next { s with
        fault := some .invalidCharacterError, epos := s.pos,
        responses := s.responses ++ [{ status := .errInvalidChar, data := 0#16, pos := s.pos }] }

/-- R108: the one word of `STAT`; it answers the context and the position or the latched error, and writes nothing. -/
def Obligations.StatReportsRegisters : Prop :=
  (∀ w : Request, decode w = .ok .stat ↔ w = 0x40000000#32) ∧
  (∀ s : State, ∃ (st : Status) (d : OutUnit) (p : Position), Answers .stat s st d p ∧
    d.extractLsb' 0 3 = s.style.code ∧ d.extractLsb' 3 1 = s.dir.code ∧ d.extractLsb' 4 12 = 0#12 ∧
    (s.fault = none → st = .okNoData ∧ p = s.pos) ∧
    (s.fault ≠ none → st.code = faultCode s.fault ∧ p = s.epos))

/-- The order of tests of R141 in a `PUT`: an operand that is no byte is refused in an encode call whatever `FAULT` and
`POS` hold; then a latched error answers at any `POS`; then the last position is refused whatever the unit is. -/
def Obligations.PutTestsInOrder : Prop :=
  ∀ (s : State) (u : CodePoint),
    (s.dir = .enc → 256 ≤ u.toNat → exec (.put u) s = .refused (.reserved .byteField)) ∧
    ((s.dir = .enc → u.toNat < 256) → s.fault ≠ none → ∃ t, exec (.put u) s = .next t) ∧
    ((s.dir = .enc → u.toNat < 256) → s.fault = none → s.pos.toNat = 2 ^ 64 - 1 →
      exec (.put u) s = .refused .positionsExhausted)

/-- R113: in a call without error, a legal `PUT` answers with the status and data of the one-shot command of the same
style and direction on the same unit; only the position differs. -/
def Obligations.SequencerAddsNoTransformation : Prop :=
  ∀ (s : State), s.fault = none → s.pos.toNat < 2 ^ 64 - 1 →
    (s.dir = .enc → ∀ b : Byte, ∃ t st d, exec (.put (b.zeroExtend 21)) s = .next t ∧
      t.responses = s.responses ++ [{ status := st, data := d, pos := s.pos }] ∧
      Answers (.encOf s.style b) s st d 0#64) ∧
    (s.dir = .dec → ∀ c : CodePoint, ∃ t st d, exec (.put c) s = .next t ∧
      t.responses = s.responses ++ [{ status := st, data := d, pos := s.pos }] ∧
      Answers (.decOf s.style c) s st d 0#64)

/-! ### Whole-machine rules -/

/-- The only ways `POS` changes (R13, R116): by one, without wrapping, in a `PUT` that leaves no error latched, and to 0 when
a call begins. -/
def Obligations.PosMovesOnlyInCalls : Prop :=
  ∀ s t : State, step s = .next t →
    t.pos = s.pos ∨
    (t.pos.toNat = s.pos.toNat + 1 ∧ s.fault = none ∧ t.fault = none ∧
      ∃ w rest u, s.inputs = .request w :: rest ∧ decode w = .ok (.put u)) ∨
    (t.pos = 0#64 ∧ BeginsCall s)

/-- R144: a latched error is left only by `START` and reset; every other step keeps it, its position and `POS`; and a call
that begins has no error, `EPOS` = 0 and `POS` = 0. -/
def Obligations.LatchedErrorLeftOnlyByNewCall : Prop :=
  (∀ s t : State, step s = .next t → s.fault ≠ none → ¬ BeginsCall s →
    t.fault = s.fault ∧ t.epos = s.epos ∧ t.pos = s.pos) ∧
  (∀ s t : State, step s = .next t → BeginsCall s → t.fault = none ∧ t.epos = 0#64 ∧ t.pos = 0#64)

/-- R143: the one way an error is latched: a `PUT` in a call without error; `EPOS` takes `POS`, `POS` and the call's context
stay, and the answer carries the code and the position. -/
def Obligations.ErrorLatchedOnlyByPut : Prop :=
  ∀ (s t : State) (k : ErrorKind), step s = .next t → s.fault = none → t.fault = some k →
    (∃ w rest u, s.inputs = .request w :: rest ∧ decode w = .ok (.put u) ∧
      unitOf s.cfg s.dir s.style u = .err k) ∧
    t.epos = s.pos ∧ t.pos = s.pos ∧ t.style = s.style ∧ t.dir = s.dir ∧
    ∃ st, st.code = faultCode t.fault ∧
      t.responses = s.responses ++ [{ status := st, data := 0#16, pos := s.pos }]

/-- No step changes the parameters of the instance (R11, R140 (c)) or a response already given, and a step adds at most one
response, the one of its request (R34, R47). The model's own, not the spec's: that the responses stand in a record of
the state (DESIGN CHOICE, log 2), that they stay over a reset (DESIGN CHOICE, log 4), that a reset adds none (DEDUCED, log 4),
and that an idle step leaves them (DESIGN CHOICE, log 5). -/
def Obligations.ParametersAndPastNeverChange : Prop :=
  ∀ s t : State, step s = .next t → t.cfg = s.cfg ∧ ∃ rs, t.responses = s.responses ++ rs ∧ rs.length ≤ 1

/-- Every step keeps the invariant of 10_state section 4. -/
def Obligations.EveryStepKeepsInvariant : Prop :=
  ∀ s t : State, s.Inv → step s = .next t → t.Inv

/-- The invariant holds after reset, under any parameters the constraints of R140 allow, the defaults among them. -/
def Obligations.ResetMeetsInvariant : Prop :=
  (∀ g : Config, g.wf = true → (State.resetWith g).Inv) ∧ State.reset.Inv

/-! ### Calls (44_stream R110 to R112) and the host's formatter (45_host_format) -/

/-- R111: a call (a `START`, then `PUT`s, `STAT`s and one-shot commands in any order, all legal) runs to its end, and its
result as the host reads it from the registers and the responses to the `PUT`s is the result as a function of the input
units alone. -/
def Obligations.CallRunsToItsResult : Prop :=
  ∀ (s : State) (dir : Direction) (st : Style) (is : List Instr) (rest : List HostEvent),
    (∀ i ∈ is, i.wf = true ∧ i.isStart = false ∧ ∀ u, i = .put u → putLegal dir u = true) →
    (is.filterMap Instr.putUnit?).length < 2 ^ 64 →
    s.inputs = (Instr.start dir st.code :: is).map (fun i => HostEvent.request (encode i)) ++ rest →
    ∃ (t : State) (rs : List Response),
      Host.Core.run Sys2Proof.core (is.length + 1) s = .next t ∧
      t.inputs = rest ∧ rs.length = is.length ∧
      t.responses = s.responses ++ { status := .okNoData, data := 0#16, pos := 0#64 } :: rs ∧
      t.observedResult (putResponses is rs) =
        callResult (unitOf s.cfg dir st) (is.filterMap Instr.putUnit?) 0

/-- From R109, R110, R111 and R160: a call that begins at reset, with no `START` (`PUT`s, `STAT`s and one-shot commands in any
order, all legal), runs in the reset context: its result, as the host reads it, is that of an encode call of style `nlbb` over
the same units. The reset is the next event pending, or has left the registers as they are. What the first branch adds is the
model's, not the spec's (log 4): a reset is one step with no response (DEDUCED), and the events after it and the responses
before it stay (DESIGN CHOICE). -/
def Obligations.CallAfterResetRunsToItsResult : Prop :=
  ∀ (s : State) (is : List Instr) (rest : List HostEvent) (k : Nat),
    (∀ i ∈ is, i.wf = true ∧ i.isStart = false ∧ ∀ u, i = .put u → putLegal .enc u = true) →
    (is.filterMap Instr.putUnit?).length < 2 ^ 64 →
    ((SameRegisters (State.resetWith s.cfg) s ∧ k = is.length ∧
        s.inputs = is.map (fun i => HostEvent.request (encode i)) ++ rest) ∨
      (k = is.length + 1 ∧
        s.inputs = .reset :: is.map (fun i => HostEvent.request (encode i)) ++ rest)) →
    ∃ (t : State) (rs : List Response),
      Host.Core.run Sys2Proof.core k s = .next t ∧
      t.inputs = rest ∧ rs.length = is.length ∧ t.responses = s.responses ++ rs ∧
      t.observedResult (putResponses is rs) =
        callResult (unitOf s.cfg .enc .nlbb) (is.filterMap Instr.putUnit?) 0

/-- R54: the pseudo-instructions `ENCODE` and `DECODE`, with or without a style, run to the result of their units, the one
the host's `encode` (at wrap width 0 and indent 0) and `decode` give; the style left out is `nlbb`. -/
def Obligations.PseudoInstructionsRunToTheirResult : Prop :=
  (∀ (s : State) (st : Option Style) (bs : List Byte) (rest : List HostEvent), bs.length < 2 ^ 64 →
    s.inputs = (Pseudo.encode st bs).expand.map (fun i => HostEvent.request (encode i)) ++ rest →
    ∃ (t : State) (rs : List Response),
      Host.Core.run Sys2Proof.core (bs.length + 1) s = .next t ∧
      t.inputs = rest ∧ rs.length = bs.length ∧
      t.responses = s.responses ++ { status := .okNoData, data := 0#16, pos := 0#64 } :: rs ∧
      t.observedResult rs = callResult (encUnit s.cfg (st.getD .nlbb)) bs 0 ∧
      hostEncode s.cfg bs (st.getD .nlbb) 0 0 = (t.observedResult rs).map (·.map (·.zeroExtend 21))) ∧
  (∀ (s : State) (st : Option Style) (cs : List CodePoint) (rest : List HostEvent), cs.length < 2 ^ 64 →
    s.inputs = (Pseudo.decode st cs).expand.map (fun i => HostEvent.request (encode i)) ++ rest →
    ∃ (t : State) (rs : List Response),
      Host.Core.run Sys2Proof.core (cs.length + 1) s = .next t ∧
      t.inputs = rest ∧ rs.length = cs.length ∧
      t.responses = s.responses ++ { status := .okNoData, data := 0#16, pos := 0#64 } :: rs ∧
      t.observedResult rs = callResult (fun c => (decUnit s.cfg (st.getD .nlbb) c).zext16) cs 0 ∧
      (hostDecode s.cfg cs (st.getD .nlbb)).map (·.map (·.zeroExtend 16)) = t.observedResult rs)

/-- R112: for every style and every sequence of bytes in its domain, the encode call succeeds, and decoding its output, with
separators inserted anywhere and in any number, gives the bytes back. -/
def Obligations.RoundTripThroughSeparators : Prop :=
  ∀ (g : Config) (st : Style) (bs : List Byte), g.wf = true → (∀ b ∈ bs, inDomain st b = true) →
    ∃ chars : List OutUnit, callResult (encUnit g st) bs 0 = .ok chars ∧
      ∀ text : List CodePoint, stripSeparators g text = chars.map (·.zeroExtend 21) →
        callResult (decUnit g st) text 0 = .ok bs

/-- R122: `Wrap` inserts only line breaks and indentation, members of every legal `SEP`; removing the separators gives the
characters back, at every width and indent. -/
def Obligations.WrapInsertsOnlySeparators : Prop :=
  ∀ (g : Config) (chars : List CodePoint) (n indent : Nat), g.wf = true → (∀ c ∈ chars, Braille c) →
    (∀ c ∈ wrap chars n indent, c ∈ chars ∨ c = 0x0A#21 ∨ c = 0x20#21) ∧
    stripSeparators g (wrap chars n indent) = chars

/-- The source's properties 1 and 2 (R112, R120, R124, R125): decoding the host's encoding gives the bytes back at every wrap
width and indent, so the width does not matter; a byte outside the domain fails the encode with its position and no text. -/
def Obligations.HostRoundTripAtAnyWrap : Prop :=
  ∀ (g : Config) (st : Style) (bs : List Byte) (n indent : Nat), g.wf = true →
    ((∀ b ∈ bs, inDomain st b = true) →
      ∃ text, hostEncode g bs st n indent = .ok text ∧ hostDecode g text st = .ok bs) ∧
    (∀ (pre post : List Byte) (b : Byte), bs = pre ++ b :: post → (∀ a ∈ pre, inDomain st a = true) →
      inDomain st b = false → hostEncode g bs st n indent = .error (.domainError, pre.length))
end

