-- ==== Sys2Proof/Laws/Decode.lean ====
section
/-!
SUPPORT. The fields of a word built by `assemble` (30_encoding R40), and of the codes of styles and directions (R44).
-/

namespace Sys2Proof

theorem reqCmd_assemble (cmd : BitVec 4) (style : BitVec 3) (dir : BitVec 1) (data : CodePoint) :
    reqCmd (assemble cmd style dir data) = cmd := by
  unfold reqCmd assemble
  ext j hj
  have : j = 0 ∨ j = 1 ∨ j = 2 ∨ j = 3 := by omega
  rcases this with rfl | rfl | rfl | rfl <;> simp

theorem reqStyle_assemble (cmd : BitVec 4) (style : BitVec 3) (dir : BitVec 1) (data : CodePoint) :
    reqStyle (assemble cmd style dir data) = style := by
  unfold reqStyle assemble
  ext j hj
  have : j = 0 ∨ j = 1 ∨ j = 2 := by omega
  rcases this with rfl | rfl | rfl <;> simp

theorem reqDir_assemble (cmd : BitVec 4) (style : BitVec 3) (dir : BitVec 1) (data : CodePoint) :
    reqDir (assemble cmd style dir data) = dir := by
  unfold reqDir assemble
  ext j hj
  obtain rfl : j = 0 := by omega
  simp

theorem reqData_assemble (cmd : BitVec 4) (style : BitVec 3) (dir : BitVec 1) (data : CodePoint) :
    reqData (assemble cmd style dir data) = data := by
  unfold reqData assemble
  ext j hj
  have h24 : j < 24 := by omega
  have h25 : j < 25 := by omega
  have h28 : j < 28 := by omega
  have h32 : j < 32 := by omega
  simp [hj, h24, h25, h28, h32]

/-- A code has a style exactly when it is 0 to 5 (R44). -/
theorem ofCode_isSome (k : BitVec 3) : (Style.ofCode k).isSome = decide (k ≤ 5#3) := by
  revert k
  decide

/-- A style is the one its code names (R44). -/
theorem ofCode_code (st : Style) : Style.ofCode st.code = some st := by
  cases st <;> rfl

/-- The direction of its own bit (R40). -/
theorem ofCode_direction_code (d : Direction) : Direction.ofCode d.code = d := by
  cases d <;> rfl

end Sys2Proof
end

