-- ==== Sys2Proof/Laws/Operands.lean ====
section
/-!
SUPPORT. What the shared decoding does in each class of a decode input (60 R139, 44 R102).
-/

namespace Sys2Proof.Machine

/-- The shape of every decode, by the class of its input. -/
theorem decodeChar_eq (g : Config) (f : Byte → UnitResult Byte) (c : CodePoint) :
    (∃ o, cpToCell c = some o ∧ decodeChar g f c = f o) ∨
    (cpToCell c = none ∧ c ∈ g.sep ∧ decodeChar g f c = .skip) ∨
    (cpToCell c = none ∧ c ∉ g.sep ∧ decodeChar g f c = .err .invalidCharacterError) := by
  unfold decodeChar classify
  cases h : cpToCell c with
  | some o => exact .inl ⟨o, rfl, rfl⟩
  | none =>
    by_cases hs : c ∈ g.sep
    · exact .inr (.inl ⟨rfl, hs, by simp [hs]⟩)
    · exact .inr (.inr ⟨rfl, hs, by simp [hs]⟩)

/-- A code point has a cell exactly when it is a Braille character (R65, R139). -/
theorem cpToCell_isSome (c : CodePoint) : (cpToCell c).isSome = isBraille c := by
  unfold cpToCell
  split <;> simp_all

end Sys2Proof.Machine
end

