-- ==== Sys2Proof/Laws/State.lean ====
section
/-!
SUPPORT. The fields of a state after each named update (Machine/Ops.lean, Machine/Request.lean, Safety.lean), one lemma per
field.
-/

namespace Sys2Proof.Machine

/-! ### `respond` -/

@[simp] theorem respond_cfg (s : State) (st : Status) (d : OutUnit) (p : Position) : (s.respond st d p).cfg = s.cfg := rfl
@[simp] theorem respond_style (s : State) (st : Status) (d : OutUnit) (p : Position) : (s.respond st d p).style = s.style := rfl
@[simp] theorem respond_dir (s : State) (st : Status) (d : OutUnit) (p : Position) : (s.respond st d p).dir = s.dir := rfl
@[simp] theorem respond_pos (s : State) (st : Status) (d : OutUnit) (p : Position) : (s.respond st d p).pos = s.pos := rfl
@[simp] theorem respond_fault (s : State) (st : Status) (d : OutUnit) (p : Position) : (s.respond st d p).fault = s.fault := rfl
@[simp] theorem respond_epos (s : State) (st : Status) (d : OutUnit) (p : Position) : (s.respond st d p).epos = s.epos := rfl
@[simp] theorem respond_inputs (s : State) (st : Status) (d : OutUnit) (p : Position) : (s.respond st d p).inputs = s.inputs := rfl
@[simp] theorem respond_responses (s : State) (st : Status) (d : OutUnit) (p : Position) : (s.respond st d p).responses = s.responses ++ [{ status := st, data := d, pos := p }] := rfl

/-! ### `raiseOneShot` -/

@[simp] theorem raiseOneShot_cfg (s : State) (k : ErrorKind) : (s.raiseOneShot k).cfg = s.cfg := rfl
@[simp] theorem raiseOneShot_style (s : State) (k : ErrorKind) : (s.raiseOneShot k).style = s.style := rfl
@[simp] theorem raiseOneShot_dir (s : State) (k : ErrorKind) : (s.raiseOneShot k).dir = s.dir := rfl
@[simp] theorem raiseOneShot_pos (s : State) (k : ErrorKind) : (s.raiseOneShot k).pos = s.pos := rfl
@[simp] theorem raiseOneShot_fault (s : State) (k : ErrorKind) : (s.raiseOneShot k).fault = s.fault := rfl
@[simp] theorem raiseOneShot_epos (s : State) (k : ErrorKind) : (s.raiseOneShot k).epos = s.epos := rfl
@[simp] theorem raiseOneShot_inputs (s : State) (k : ErrorKind) : (s.raiseOneShot k).inputs = s.inputs := rfl
@[simp] theorem raiseOneShot_responses (s : State) (k : ErrorKind) : (s.raiseOneShot k).responses = s.responses ++ [{ status := k.status, data := 0#16, pos := 0#64 }] := rfl

/-! ### `acceptUnit` -/

@[simp] theorem acceptUnit_cfg (s : State) (st : Status) (d : OutUnit) : (s.acceptUnit st d).cfg = s.cfg := rfl
@[simp] theorem acceptUnit_style (s : State) (st : Status) (d : OutUnit) : (s.acceptUnit st d).style = s.style := rfl
@[simp] theorem acceptUnit_dir (s : State) (st : Status) (d : OutUnit) : (s.acceptUnit st d).dir = s.dir := rfl
@[simp] theorem acceptUnit_pos (s : State) (st : Status) (d : OutUnit) : (s.acceptUnit st d).pos = s.pos + 1#64 := rfl
@[simp] theorem acceptUnit_fault (s : State) (st : Status) (d : OutUnit) : (s.acceptUnit st d).fault = s.fault := rfl
@[simp] theorem acceptUnit_epos (s : State) (st : Status) (d : OutUnit) : (s.acceptUnit st d).epos = s.epos := rfl
@[simp] theorem acceptUnit_inputs (s : State) (st : Status) (d : OutUnit) : (s.acceptUnit st d).inputs = s.inputs := rfl
@[simp] theorem acceptUnit_responses (s : State) (st : Status) (d : OutUnit) : (s.acceptUnit st d).responses = s.responses ++ [{ status := st, data := d, pos := s.pos }] := rfl

/-! ### `raiseInCall` -/

@[simp] theorem raiseInCall_cfg (s : State) (k : ErrorKind) : (s.raiseInCall k).cfg = s.cfg := rfl
@[simp] theorem raiseInCall_style (s : State) (k : ErrorKind) : (s.raiseInCall k).style = s.style := rfl
@[simp] theorem raiseInCall_dir (s : State) (k : ErrorKind) : (s.raiseInCall k).dir = s.dir := rfl
@[simp] theorem raiseInCall_pos (s : State) (k : ErrorKind) : (s.raiseInCall k).pos = s.pos := rfl
@[simp] theorem raiseInCall_fault (s : State) (k : ErrorKind) : (s.raiseInCall k).fault = some k := rfl
@[simp] theorem raiseInCall_epos (s : State) (k : ErrorKind) : (s.raiseInCall k).epos = s.pos := rfl
@[simp] theorem raiseInCall_inputs (s : State) (k : ErrorKind) : (s.raiseInCall k).inputs = s.inputs := rfl
@[simp] theorem raiseInCall_responses (s : State) (k : ErrorKind) : (s.raiseInCall k).responses = s.responses ++ [{ status := k.status, data := 0#16, pos := s.pos }] := rfl

/-! ### `repeatError` -/

@[simp] theorem repeatError_cfg (s : State) (k : ErrorKind) : (s.repeatError k).cfg = s.cfg := rfl
@[simp] theorem repeatError_style (s : State) (k : ErrorKind) : (s.repeatError k).style = s.style := rfl
@[simp] theorem repeatError_dir (s : State) (k : ErrorKind) : (s.repeatError k).dir = s.dir := rfl
@[simp] theorem repeatError_pos (s : State) (k : ErrorKind) : (s.repeatError k).pos = s.pos := rfl
@[simp] theorem repeatError_fault (s : State) (k : ErrorKind) : (s.repeatError k).fault = s.fault := rfl
@[simp] theorem repeatError_epos (s : State) (k : ErrorKind) : (s.repeatError k).epos = s.epos := rfl
@[simp] theorem repeatError_inputs (s : State) (k : ErrorKind) : (s.repeatError k).inputs = s.inputs := rfl
@[simp] theorem repeatError_responses (s : State) (k : ErrorKind) : (s.repeatError k).responses = s.responses ++ [{ status := k.status, data := 0#16, pos := s.epos }] := rfl

/-! ### `startCall` -/

@[simp] theorem startCall_cfg (s : State) (d : Direction) (st : Style) : (s.startCall d st).cfg = s.cfg := rfl
@[simp] theorem startCall_style (s : State) (d : Direction) (st : Style) : (s.startCall d st).style = st := rfl
@[simp] theorem startCall_dir (s : State) (d : Direction) (st : Style) : (s.startCall d st).dir = d := rfl
@[simp] theorem startCall_pos (s : State) (d : Direction) (st : Style) : (s.startCall d st).pos = 0#64 := rfl
@[simp] theorem startCall_fault (s : State) (d : Direction) (st : Style) : (s.startCall d st).fault = none := rfl
@[simp] theorem startCall_epos (s : State) (d : Direction) (st : Style) : (s.startCall d st).epos = 0#64 := rfl
@[simp] theorem startCall_inputs (s : State) (d : Direction) (st : Style) : (s.startCall d st).inputs = s.inputs := rfl
@[simp] theorem startCall_responses (s : State) (d : Direction) (st : Style) : (s.startCall d st).responses = s.responses := rfl

/-! ### `resetRegisters` -/

@[simp] theorem resetRegisters_cfg (s : State) : (s.resetRegisters).cfg = s.cfg := rfl
@[simp] theorem resetRegisters_style (s : State) : (s.resetRegisters).style = .nlbb := rfl
@[simp] theorem resetRegisters_dir (s : State) : (s.resetRegisters).dir = .enc := rfl
@[simp] theorem resetRegisters_pos (s : State) : (s.resetRegisters).pos = 0#64 := rfl
@[simp] theorem resetRegisters_fault (s : State) : (s.resetRegisters).fault = none := rfl
@[simp] theorem resetRegisters_epos (s : State) : (s.resetRegisters).epos = 0#64 := rfl
@[simp] theorem resetRegisters_inputs (s : State) : (s.resetRegisters).inputs = s.inputs := rfl
@[simp] theorem resetRegisters_responses (s : State) : (s.resetRegisters).responses = s.responses := rfl

/-! ### `present` -/

@[simp] theorem present_cfg (s : State) (w : Request) : (s.present w).cfg = s.cfg := rfl
@[simp] theorem present_style (s : State) (w : Request) : (s.present w).style = s.style := rfl
@[simp] theorem present_dir (s : State) (w : Request) : (s.present w).dir = s.dir := rfl
@[simp] theorem present_pos (s : State) (w : Request) : (s.present w).pos = s.pos := rfl
@[simp] theorem present_fault (s : State) (w : Request) : (s.present w).fault = s.fault := rfl
@[simp] theorem present_epos (s : State) (w : Request) : (s.present w).epos = s.epos := rfl
@[simp] theorem present_inputs (s : State) (w : Request) : (s.present w).inputs = .request w :: s.inputs := rfl
@[simp] theorem present_responses (s : State) (w : Request) : (s.present w).responses = s.responses := rfl

/-! ### `withInputs` -/

@[simp] theorem withInputs_cfg (s : State) (es : List HostEvent) : (s.withInputs es).cfg = s.cfg := rfl
@[simp] theorem withInputs_style (s : State) (es : List HostEvent) : (s.withInputs es).style = s.style := rfl
@[simp] theorem withInputs_dir (s : State) (es : List HostEvent) : (s.withInputs es).dir = s.dir := rfl
@[simp] theorem withInputs_pos (s : State) (es : List HostEvent) : (s.withInputs es).pos = s.pos := rfl
@[simp] theorem withInputs_fault (s : State) (es : List HostEvent) : (s.withInputs es).fault = s.fault := rfl
@[simp] theorem withInputs_epos (s : State) (es : List HostEvent) : (s.withInputs es).epos = s.epos := rfl
@[simp] theorem withInputs_inputs (s : State) (es : List HostEvent) : (s.withInputs es).inputs = es := rfl
@[simp] theorem withInputs_responses (s : State) (es : List HostEvent) : (s.withInputs es).responses = s.responses := rfl

end Sys2Proof.Machine
end

