-- ==== Sys2Proof/Laws/Ops.lean ====
section
/-!
SUPPORT. What the shared operations and the instructions can do, said once: the answers of one-shot commands, the result of
a `PUT`'s unit, the next states of `exec`, and the next states of `step`.
-/

namespace Sys2Proof.Machine

/-- A one-shot encode answers once and changes nothing else. -/
theorem answerEnc_responds (s : State) (r : UnitResult OutUnit) :
    ∃ st d, s.answerEnc r = s.respond st d 0#64 := by
  cases r <;> exact ⟨_, _, rfl⟩

/-- A one-shot decode answers once and changes nothing else. -/
theorem answerDec_responds (s : State) (r : UnitResult Byte) :
    ∃ st d, s.answerDec r = s.respond st d 0#64 := by
  cases r <;> exact ⟨_, _, rfl⟩

/-- A `PUT`'s unit is accepted or raises an error. -/
theorem putResult_cases (s : State) (r : UnitResult OutUnit) :
    (∃ st d, (st = .okData ∨ st = .okNoData) ∧ s.putResult r = s.acceptUnit st d) ∨
    (∃ k, r = .err k ∧ s.putResult r = s.raiseInCall k) := by
  cases r with
  | ok d => exact .inl ⟨_, _, .inl rfl, rfl⟩
  | skip => exact .inl ⟨_, _, .inr rfl, rfl⟩
  | err k => exact .inr ⟨k, rfl, rfl⟩

/-- `STAT` responds once and changes nothing else. -/
theorem execStat_responds (s : State) :
    ∃ st p, execStat s = .next (s.respond st (contextWord s.dir s.style) p) := by
  unfold execStat
  split <;> exact ⟨_, _, rfl⟩

/-- The next states of `START`. -/
theorem execStart_next {dir : Direction} {code : BitVec 3} {s t : State} (h : execStart dir code s = .next t) :
    ∃ st, Style.ofCode code = some st ∧ t = (s.startCall dir st).respond .okNoData 0#16 0#64 := by
  unfold execStart at h
  split at h
  · next st hst => exact ⟨st, hst, by injection h with h; exact h.symm⟩
  · cases h

/-- The next states of `PUT`. -/
theorem execPut_next {u : CodePoint} {s t : State} (h : execPut u s = .next t) :
    putLegal s.dir u = true ∧
    ((∃ k, s.fault = some k ∧ t = s.repeatError k) ∨
     (s.fault = none ∧ s.pos ≠ lastPosition ∧ t = s.putResult (unitOf s.cfg s.dir s.style u))) := by
  unfold execPut at h
  split at h
  · next hl =>
    refine ⟨hl, ?_⟩
    split at h
    · next k hk => exact .inl ⟨k, hk, by injection h with h; exact h.symm⟩
    · next hk =>
      split at h
      · cases h
      · next hp => exact .inr ⟨hk, hp, by injection h with h; exact h.symm⟩
  · cases h

/-- Everything an instruction can do when it gives a next state: a one-shot command and `STAT` respond; `START` begins a
call; `PUT` repeats the latched error, or treats its unit. -/
theorem exec_next {i : Instr} {s t : State} (h : exec i s = .next t) :
    (i.isOneShot = true ∧ ∃ st d, t = s.respond st d 0#64) ∨
    (∃ dir code st, i = .start dir code ∧ Style.ofCode code = some st ∧
      t = (s.startCall dir st).respond .okNoData 0#16 0#64) ∨
    (∃ u, i = .put u ∧ putLegal s.dir u = true ∧
      ((∃ k, s.fault = some k ∧ t = s.repeatError k) ∨
       (s.fault = none ∧ s.pos ≠ lastPosition ∧ t = s.putResult (unitOf s.cfg s.dir s.style u)))) ∨
    (i = .stat ∧ ∃ st p, t = s.respond st (contextWord s.dir s.style) p) := by
  cases i with
  | start dir code =>
    obtain ⟨st, hst, ht⟩ := execStart_next h
    exact .inr (.inl ⟨dir, code, st, rfl, hst, ht⟩)
  | put u =>
    obtain ⟨hl, hc⟩ := execPut_next h
    exact .inr (.inr (.inl ⟨u, rfl, hl, hc⟩))
  | stat =>
    obtain ⟨st, p, hs⟩ := execStat_responds s
    have h' : execStat s = .next t := h
    rw [hs] at h'
    injection h' with h'
    exact .inr (.inr (.inr ⟨rfl, st, p, h'.symm⟩))
  | encBcd b | encDirect b | encNlbb b | encNlbt b | encNrbb b | encNrbt b =>
    obtain ⟨st, d, hs⟩ := answerEnc_responds s _
    injection h with h
    exact .inl ⟨rfl, st, d, h ▸ hs⟩
  | decBcd c | decDirect c | decNlbb c | decNlbt c | decNrbb c | decNrbt c =>
    obtain ⟨st, d, hs⟩ := answerDec_responds s _
    injection h with h
    exact .inl ⟨rfl, st, d, h ▸ hs⟩

/-- With nothing presented, a step changes nothing. -/
theorem step_of_nil {s : State} (h : s.inputs = []) : step s = .next s := by
  simp only [step, State.transact, h]

/-- With an event presented, a step takes it and handles it. -/
theorem step_of_cons {s : State} {e : HostEvent} {rest : List HostEvent} (h : s.inputs = e :: rest) :
    step s = (s.withInputs rest).handleEvent e := by
  simp only [step, State.transact, h, State.withInputs]

/-- Everything a step can do when it gives a next state: nothing presented, a reset, or one instruction. -/
theorem step_next {s t : State} (h : step s = .next t) :
    (s.inputs = [] ∧ t = s) ∨
    (∃ rest, s.inputs = .reset :: rest ∧ t = (s.withInputs rest).resetRegisters) ∨
    (∃ w rest i, s.inputs = .request w :: rest ∧ decode w = .ok i ∧ exec i (s.withInputs rest) = .next t) := by
  rcases hi : s.inputs with _ | ⟨w | _, rest⟩
  · rw [step_of_nil hi] at h
    injection h with h
    exact .inl ⟨rfl, h.symm⟩
  · rw [step_of_cons hi] at h
    change (s.withInputs rest).handleRequest w = .next t at h
    unfold State.handleRequest at h
    split at h
    · next i hd => exact .inr (.inr ⟨w, rest, i, rfl, hd, h⟩)
    · cases h
  · rw [step_of_cons hi] at h
    injection h with h
    exact .inr (.inl ⟨rest, rfl, h.symm⟩)

end Sys2Proof.Machine
end

