-- ==== Sys2Proof/Laws/PerInstr.lean ====
section
/-!
SUPPORT. Facts about every instruction as syntax, one lemma per constructor.
-/

namespace Sys2Proof.Laws

/-- The three reserved bits of a request word built from its fields are 0 (R40). -/
theorem reqRsv_assemble (cmd : BitVec 4) (style : BitVec 3) (dir : BitVec 1) (data : CodePoint) :
    reqRsv (assemble cmd style dir data) = 0#3 := by
  unfold reqRsv assemble
  ext j hj
  simp
  omega

end Sys2Proof.Laws

namespace Sys2Proof.Laws.RsvZero

/-- The word of the instruction has `rsv` (bits 23:21) 0 (30_encoding R40, R42). -/
def Statement (i : Instr) : Prop := reqRsv (encode i) = 0#3

theorem encBcd (b : Byte) : Statement (.encBcd b) := reqRsv_assemble _ _ _ _
theorem encDirect (b : Byte) : Statement (.encDirect b) := reqRsv_assemble _ _ _ _
theorem encNlbb (b : Byte) : Statement (.encNlbb b) := reqRsv_assemble _ _ _ _
theorem encNlbt (b : Byte) : Statement (.encNlbt b) := reqRsv_assemble _ _ _ _
theorem encNrbb (b : Byte) : Statement (.encNrbb b) := reqRsv_assemble _ _ _ _
theorem encNrbt (b : Byte) : Statement (.encNrbt b) := reqRsv_assemble _ _ _ _
theorem decBcd (c : CodePoint) : Statement (.decBcd c) := reqRsv_assemble _ _ _ _
theorem decDirect (c : CodePoint) : Statement (.decDirect c) := reqRsv_assemble _ _ _ _
theorem decNlbb (c : CodePoint) : Statement (.decNlbb c) := reqRsv_assemble _ _ _ _
theorem decNlbt (c : CodePoint) : Statement (.decNlbt c) := reqRsv_assemble _ _ _ _
theorem decNrbb (c : CodePoint) : Statement (.decNrbb c) := reqRsv_assemble _ _ _ _
theorem decNrbt (c : CodePoint) : Statement (.decNrbt c) := reqRsv_assemble _ _ _ _
theorem start (dir : Direction) (style : BitVec 3) : Statement (.start dir style) := reqRsv_assemble _ _ _ _
theorem put (u : CodePoint) : Statement (.put u) := reqRsv_assemble _ _ _ _
theorem stat : Statement (.stat) := reqRsv_assemble _ _ _ _

end Sys2Proof.Laws.RsvZero
end

