-- ==== Sys2Proof/Tests/Slice0.lean ====
section
/-!
SUPPORT. The author's own tests: expected results from spec/ (95_test_vectors by V number, 30_encoding section 8, the rules'
examples), and for every obligation with hypotheses a witness that meets them.
-/

namespace Sys2Proof.Tests

open Sys2Proof Sys2Proof.Machine

/-! ### Helpers -/

/-- The last response of an outcome as (status, data, pos) (R47). -/
def answer : Host.Outcome State Fault Refusal → Option (Nat × Nat × Nat)
  | .next s => s.responses.getLast?.map fun r => (r.status.code.toNat, r.data.toNat, r.pos.toNat)
  | _ => none

/-- The registers of an outcome as (STYLE, DIR, POS, FAULT, EPOS). -/
def registers : Host.Outcome State Fault Refusal → Option (Nat × Nat × Nat × Nat × Nat)
  | .next s => some (s.style.code.toNat, s.dir.code.toNat, s.pos.toNat, (faultCode s.fault).toNat, s.epos.toNat)
  | _ => none

/-- The refusal of an outcome. -/
def refusal : Host.Outcome State Fault Refusal → Option Refusal
  | .refused r => some r
  | _ => none

/-- The next state of an outcome, or the given one. -/
def nextOr (s : State) : Host.Outcome State Fault Refusal → State
  | .next t => t
  | _ => s

/-- A state in a call, with the default parameters and nothing given yet. -/
def inCall (dir : Direction) (st : Style) (pos : Nat) (fault : Option ErrorKind) (epos : Nat) : State :=
  { State.reset with style := st, dir := dir, pos := BitVec.ofNat 64 pos, fault := fault, epos := BitVec.ofNat 64 epos }

/-- The instruction run at reset. -/
def atReset (i : Instr) : Option (Nat × Nat × Nat) := answer (exec i State.reset)

/-- An offset table's entries for the given bytes. -/
def offsets (col : Column) (msb : MsbRow) (bs : List Nat) : List Nat :=
  bs.map fun b => (nibEnc (BitVec.ofNat 8 b) col msb).toNat

/-- `bcd` offsets of values under a setting; 256 where encoding fails. -/
def bcdOffsets (col : Column) (msb : MsbRow) (vs : List Nat) : List Nat :=
  vs.map fun v =>
    match bcdEncode { Config.standard with bcdTCol := col, bcdMsbRow := msb } (BitVec.ofNat 8 v) with
    | .ok cp => cp.toNat - 0x2800
    | _ => 256

/-! ### WellFormed: an ill-formed term for its one check (R44: style codes 6 and 7 are reserved) -/

theorem test_wf_refuses_style_6 : (Instr.start .enc 6#3).wf = false := by decide
theorem test_wf_refuses_style_7 : (Instr.start .dec 7#3).wf = false := by decide
theorem test_wf_accepts_style_5 : (Instr.start .dec 5#3).wf = true := by decide

/-! ### Decode: one word per constructor, bit by bit from R42 -/

theorem test_decode_encBcd : decode 0b00000000000000000000000010100101#32 = .ok (.encBcd 0xA5#8) := by decide
theorem test_decode_encDirect : decode 0b00000010000000000000000010100101#32 = .ok (.encDirect 0xA5#8) := by decide
theorem test_decode_encNlbb : decode 0b00000100000000000000000010100101#32 = .ok (.encNlbb 0xA5#8) := by decide
theorem test_decode_encNlbt : decode 0b00000110000000000000000010100101#32 = .ok (.encNlbt 0xA5#8) := by decide
theorem test_decode_encNrbb : decode 0b00001000000000000000000010100101#32 = .ok (.encNrbb 0xA5#8) := by decide
theorem test_decode_encNrbt : decode 0b00001010000000000000000010100101#32 = .ok (.encNrbt 0xA5#8) := by decide
theorem test_decode_decBcd : decode 0b00010000000000010010100010000100#32 = .ok (.decBcd 0x12884#21) := by decide
theorem test_decode_decDirect : decode 0b00010010000000010010100010000100#32 = .ok (.decDirect 0x12884#21) := by decide
theorem test_decode_decNlbb : decode 0b00010100000000010010100010000100#32 = .ok (.decNlbb 0x12884#21) := by decide
theorem test_decode_decNlbt : decode 0b00010110000000010010100010000100#32 = .ok (.decNlbt 0x12884#21) := by decide
theorem test_decode_decNrbb : decode 0b00011000000000010010100010000100#32 = .ok (.decNrbb 0x12884#21) := by decide
theorem test_decode_decNrbt : decode 0b00011010000000010010100010000100#32 = .ok (.decNrbt 0x12884#21) := by decide
theorem test_decode_start : decode 0b00101011000000000000000000000000#32 = .ok (.start .dec 5#3) := by decide
theorem test_decode_put : decode 0b00110000000000010010100010000100#32 = .ok (.put 0x12884#21) := by decide
theorem test_decode_stat : decode 0b01000000000000000000000000000000#32 = .ok .stat := by decide

/-- Reserved words of V32, and the item of R50 each falls under. -/
theorem test_decode_reserved :
    decode 0x04000100#32 = .error .byteField ∧ decode 0x0C000000#32 = .error .styleCode ∧
    decode 0x0E000000#32 = .error .styleCode ∧ decode 0x05000048#32 = .error .dirField ∧
    decode 0x04200048#32 = .error .rsv ∧ decode 0x1C002800#32 = .error .styleCode ∧
    decode 0x2D000000#32 = .error .styleCode ∧ decode 0x24000001#32 = .error .dataField ∧
    decode 0x32000048#32 = .error .styleField ∧ decode 0x40000001#32 = .error .dataField ∧
    decode 0x50000000#32 = .error .cmd ∧ decode 0xF0000000#32 = .error .cmd := by decide

/-- 30_encoding section 8, the words of R53's syntax. -/
theorem test_encode_words :
    encode (.encNlbb 0x48#8) = 0x04000048#32 ∧ encode (.decDirect 0x0A#21) = 0x1200000A#32 ∧
    encode (.start .dec 5#3) = 0x2B000000#32 ∧ encode (.put 0x2884#21) = 0x30002884#32 ∧
    encode .stat = 0x40000000#32 := by decide

/-- The host's entry reads the table's word. -/
theorem test_decodeTableWord :
    decodeTableWord 32 0x0A000000 = some (.encNrbt 0#8) ∧ decodeTableWord 32 0x0C000000 = none := by decide

/-! ### Dot grid (V7, V8, R64) -/

theorem test_grid_inverse :
    (∀ k : Fin 8, offsetBitFor (positionOf k).1 (positionOf k).2 = k) ∧
    (∀ r : Fin 4, positionOf (offsetBitFor .left r) = (.left, r) ∧ positionOf (offsetBitFor .right r) = (.right, r)) := by
  decide

theorem test_grid_dots :
    (∀ r : Fin 4, (offsetBitFor .left r).val + 1 = dotAt .left r ∧ (offsetBitFor .right r).val + 1 = dotAt .right r) ∧
    columnMask .left ||| columnMask .right = 0xFF#8 ∧ columnMask .left &&& columnMask .right = 0#8 := by
  decide

/-- V8: offset 0x47 raises dots 1, 2, 3, 7. -/
theorem test_grid_raised : (List.range' 1 8).filter (dotRaised 0x47#8) = [1, 2, 3, 7] := by decide

/-! ### The tables of 95 section 4: first row and first column (each table is separable) -/

theorem test_table_nlbb :
    offsets .left .bottom (List.range 16) = [0x00, 0x08, 0x10, 0x18, 0x20, 0x28, 0x30, 0x38, 0x80, 0x88, 0x90, 0x98, 0xA0, 0xA8, 0xB0, 0xB8] ∧
    offsets .left .bottom ((List.range 16).map (16 * ·)) = [0x00, 0x01, 0x02, 0x03, 0x04, 0x05, 0x06, 0x07, 0x40, 0x41, 0x42, 0x43, 0x44, 0x45, 0x46, 0x47] := by decide

theorem test_table_nlbt :
    offsets .left .top (List.range 16) = [0x00, 0x80, 0x20, 0xA0, 0x10, 0x90, 0x30, 0xB0, 0x08, 0x88, 0x28, 0xA8, 0x18, 0x98, 0x38, 0xB8] ∧
    offsets .left .top ((List.range 16).map (16 * ·)) = [0x00, 0x40, 0x04, 0x44, 0x02, 0x42, 0x06, 0x46, 0x01, 0x41, 0x05, 0x45, 0x03, 0x43, 0x07, 0x47] := by decide

theorem test_table_nrbb :
    offsets .right .bottom (List.range 16) = [0x00, 0x01, 0x02, 0x03, 0x04, 0x05, 0x06, 0x07, 0x40, 0x41, 0x42, 0x43, 0x44, 0x45, 0x46, 0x47] ∧
    offsets .right .bottom ((List.range 16).map (16 * ·)) = [0x00, 0x08, 0x10, 0x18, 0x20, 0x28, 0x30, 0x38, 0x80, 0x88, 0x90, 0x98, 0xA0, 0xA8, 0xB0, 0xB8] := by decide

theorem test_table_nrbt :
    offsets .right .top (List.range 16) = [0x00, 0x40, 0x04, 0x44, 0x02, 0x42, 0x06, 0x46, 0x01, 0x41, 0x05, 0x45, 0x03, 0x43, 0x07, 0x47] ∧
    offsets .right .top ((List.range 16).map (16 * ·)) = [0x00, 0x80, 0x20, 0xA0, 0x10, 0x90, 0x30, 0xB0, 0x08, 0x88, 0x28, 0xA8, 0x18, 0x98, 0x38, 0xB8] := by decide

/-- V22: `bcd` under the four settings. -/
theorem test_bcd_settings :
    bcdOffsets .left .bottom [0, 1, 5, 9, 10, 42, 50, 72, 90, 99] = [0x00, 0x08, 0x28, 0x88, 0x01, 0x14, 0x05, 0x17, 0x41, 0xC9] ∧
    bcdOffsets .left .top [0, 1, 5, 9, 10, 42, 50, 72, 90, 99] = [0x00, 0x80, 0x90, 0x88, 0x40, 0x22, 0x42, 0x66, 0x41, 0xC9] ∧
    bcdOffsets .right .bottom [0, 1, 5, 9, 10, 42, 50, 72, 90, 99] = [0x00, 0x01, 0x05, 0x41, 0x08, 0x22, 0x28, 0x3A, 0x88, 0xC9] ∧
    bcdOffsets .right .top [0, 1, 5, 9, 10, 42, 50, 72, 90, 99] = [0x00, 0x40, 0x42, 0x41, 0x80, 0x14, 0x90, 0xB4, 0x88, 0xC9] := by
  decide

/-! ### One-shot commands -/

/-- V3, V9 to V13: bytes 0x48 and 100. -/
theorem test_encBcd : atReset (.encBcd 42#8) = some (0, 0x2814, 0) ∧ atReset (.encBcd 100#8) = some (2, 0, 0) := by decide
theorem test_encDirect : atReset (.encDirect 0x48#8) = some (0, 0x2848, 0) ∧ atReset (.encDirect 100#8) = some (0, 0x2864, 0) := by decide
theorem test_encNlbb : atReset (.encNlbb 0x48#8) = some (0, 0x2884, 0) ∧ atReset (.encNlbb 100#8) = some (0, 0x2826, 0) := by decide
theorem test_encNlbt : atReset (.encNlbt 0x48#8) = some (0, 0x280A, 0) ∧ atReset (.encNlbt 100#8) = some (0, 0x2816, 0) := by decide
theorem test_encNrbb : atReset (.encNrbb 0x48#8) = some (0, 0x2860, 0) ∧ atReset (.encNrbb 100#8) = some (0, 0x2834, 0) := by decide
theorem test_encNrbt : atReset (.encNrbt 0x48#8) = some (0, 0x2811, 0) ∧ atReset (.encNrbt 100#8) = some (0, 0x2832, 0) := by decide

/-- V23, V25: `DEC.bcd`, and the case that separates the two tests of 90_conflicts C1. -/
theorem test_decBcd : atReset (.decBcd 0x2814#21) = some (0, 42, 0) ∧ atReset (.decBcd 0x28A5#21) = some (2, 0, 0) := by decide

/-- V9: the neighbours of the block, and a separator. -/
theorem test_decDirect :
    atReset (.decDirect 0x28FF#21) = some (0, 0xFF, 0) ∧ atReset (.decDirect 0x27FF#21) = some (3, 0, 0) ∧
    atReset (.decDirect 0x2900#21) = some (3, 0, 0) ∧ atReset (.decDirect 0x0A#21) = some (1, 0, 0) := by decide

/-- V15, V30: the same character under the nibble-column styles; the largest operand. -/
theorem test_decNlbb : atReset (.decNlbb 0x2884#21) = some (0, 0x48, 0) ∧ atReset (.decNlbb 0x1FFFFF#21) = some (3, 0, 0) := by decide
theorem test_decNlbt : atReset (.decNlbt 0x2884#21) = some (0, 0x21, 0) := by decide
theorem test_decNrbb : atReset (.decNrbb 0x2840#21) = some (0, 0x08, 0) := by decide
theorem test_decNrbt : atReset (.decNrbt 0x2884#21) = some (0, 0x12, 0) := by decide

/-! ### The sequencer -/

/-- V33, line 9: `START` clears a latched error. -/
theorem test_start_clears :
    registers (exec (.start .enc 0#3) (inCall .enc .bcd 2 (some .domainError) 2)) = some (0, 0, 0, 0, 0) := by decide

/-- P1, line 3, and V33, line 4. -/
theorem test_put_encode :
    answer (exec (.put 0x65#21) (inCall .enc .nlbb 1 none 0)) = some (0, 0x282E, 1) ∧
    registers (exec (.put 100#21) (inCall .enc .bcd 2 none 0)) = some (0, 0, 2, 2, 2) := by decide

/-- P2, line 6, and P4, line 4. -/
theorem test_put_decode :
    answer (exec (.put 0x0A#21) (inCall .dec .nlbb 4 none 0)) = some (1, 0, 4) ∧
    registers (exec (.put 0x69#21) (inCall .dec .direct 2 none 0)) = some (1, 1, 2, 3, 2) := by decide

/-- P3, line 11, and P1, line 8. -/
theorem test_stat :
    answer (exec .stat (inCall .dec .bcd 2 (some .domainError) 2)) = some (2, 0x0008, 2) ∧
    answer (exec .stat (inCall .enc .nlbb 6 none 0)) = some (1, 0x0002, 6) := by decide

/-- V32: 0x30002884 is reserved while `DIR` = 0; R13: the last position. -/
theorem test_put_refused :
    refusal (step (State.reset.withFetchWord 32 0x30002884)) = some (.reserved .byteField) ∧
    refusal (exec (.put 0#21) (inCall .enc .nlbb (2 ^ 64 - 1) none 0)) = some .positionsExhausted := by decide

/-- V34: the first step after reset runs the request presented. -/
theorem test_first_step : answer (step (State.reset.withFetchWord 32 0x30000048)) = some (0, 0x2884, 0) := by decide

/-- R160: a reset between two requests, in the middle of a faulted call. -/
theorem test_reset_event :
    registers (step ((inCall .dec .bcd 7 (some .domainError) 7).withInputs [.reset])) = some (2, 0, 0, 0, 0) := by decide

/-- R47: the packed response. -/
theorem test_pack : (Response.mk .errDomain 0x1234#16 5#64).pack = 0x212340000000000000005#82 := by decide

/-! ### The host's formatter (V35, R128) -/

theorem test_wrap :
    wrap [0x2884#21, 0x282E#21, 0x28A6#21, 0x28A6#21, 0x28BE#21, 0x2890#21] 4 2 =
      [0x2884#21, 0x282E#21, 0x28A6#21, 0x28A6#21, 0x0A#21, 0x20#21, 0x20#21, 0x28BE#21, 0x2890#21] ∧
    wrap [0x2884#21, 0x282E#21] 2 1 = [0x2884#21, 0x282E#21, 0x0A#21, 0x20#21] := by decide

/-- V1: the UTF-8 bytes of the first golden character. -/
theorem test_utf8 : utf8OfOffset 0x84#8 = [0xE2#8, 0xA2#8, 0x84#8] := by decide

/-! ### Witnesses: for each obligation with hypotheses, values that meet them -/

theorem test_witness_DecodeEncodeRoundTrip : (Instr.start .dec 5#3).wf = true ∧ (Instr.put 0x1FFFFF#21).wf = true := by decide
theorem test_witness_DecodedWordIsItsEncoding : decode 0x141FFFFF#32 = .ok (.decNlbb 0x1FFFFF#21) := by decide
theorem test_witness_MatchMaskTableDecides :
    (TableRow.mk "START" 0x20000000#32 0xF0FFFFFF#32 ∈ requestTable) ∧
    (TableRow.mk "START" 0x20000000#32 0xF0FFFFFF#32).selects 0x2B000000#32 = true ∧
    (TableRow.mk "START" 0x20000000#32 0xF0FFFFFF#32).selects 0x2C000000#32 = false := by decide
theorem test_witness_StepRunsDecodedInstruction :
    (State.reset.withInputs [.request 0x40000000#32, .reset]).inputs = .request 0x40000000#32 :: [.reset] ∧
    decode 0x40000000#32 = .ok .stat ∧ 0x40000000 < 2 ^ 32 ∧ decode (BitVec.ofNat 32 0x40000000) = .ok .stat := by decide
theorem test_witness_IdleStepChangesNothing : State.reset.inputs = [] := by decide
theorem test_witness_ResetEventWritesRegisters :
    ((inCall .dec .bcd 7 (some .domainError) 7).withInputs [.reset, .request 0#32]).inputs = .reset :: [.request 0#32] := by
  decide
theorem test_reserved_by_dir :
    Reserved 0x30000100#32 .enc ∧ ¬ Reserved 0x30000100#32 .dec ∧ ¬ Reserved 0x300000FF#32 .enc :=
  ⟨by decide, by decide, by decide⟩
theorem test_witness_ResetEventKeepsPorts :
    ∃ t, step ((inCall .dec .bcd 7 (some .domainError) 7).withInputs [.reset, .request 0#32]) = .next t := ⟨_, rfl⟩
theorem test_witness_StepRefusesExactlyReserved :
    (State.reset.withInputs [.request 0x30000100#32]).inputs = .request 0x30000100#32 :: [] ∧
    Reserved 0x30000100#32 State.reset.dir ∧ ¬ Reserved 0x300000FF#32 State.reset.dir ∧
    AtLastPosition 0x300000FF#32 (inCall .enc .nlbb (2 ^ 64 - 1) none 0) ∧
    ¬ AtLastPosition 0x300000FF#32 (inCall .enc .nlbb (2 ^ 64 - 2) none 0) :=
  ⟨rfl, test_reserved_by_dir.1, test_reserved_by_dir.2.2, by decide, by decide⟩
theorem test_witness_OneResponsePerRequest :
    (State.reset.withInputs [.request 0x300000FF#32]).inputs = .request 0x300000FF#32 :: [] ∧
    ¬ Reserved 0x300000FF#32 State.reset.dir ∧ ¬ AtLastPosition 0x300000FF#32 State.reset :=
  ⟨rfl, test_reserved_by_dir.2.2, by decide⟩
theorem test_witness_EncBcdAnswers : 0x000000FF#32 &&& 0xFFFFFF00#32 = 0x00000000#32 ∧ 100 ≤ (100#8).toNat ∧ ¬ 100 ≤ (99#8).toNat := by decide
theorem test_witness_EncDirectAnswers : 0x020000FF#32 &&& 0xFFFFFF00#32 = 0x02000000#32 := by decide
theorem test_witness_EncNlbbAnswers : 0x040000FF#32 &&& 0xFFFFFF00#32 = 0x04000000#32 := by decide
theorem test_witness_EncNlbtAnswers : 0x060000FF#32 &&& 0xFFFFFF00#32 = 0x06000000#32 := by decide
theorem test_witness_EncNrbbAnswers : 0x080000FF#32 &&& 0xFFFFFF00#32 = 0x08000000#32 := by decide
theorem test_witness_EncNrbtAnswers : 0x0A0000FF#32 &&& 0xFFFFFF00#32 = 0x0A000000#32 := by decide
theorem test_witness_DecBcdAnswers : 0x101FFFFF#32 &&& 0xFFE00000#32 = 0x10000000#32 ∧
    (extract 0x88#8 .right .bottom).toNat = 9 ∧ (extract 0x90#8 .right .bottom).toNat = 10 := by decide
theorem test_witness_DecDirectAnswers : 0x121FFFFF#32 &&& 0xFFE00000#32 = 0x12000000#32 := by decide
theorem test_witness_DecNlbbAnswers : 0x141FFFFF#32 &&& 0xFFE00000#32 = 0x14000000#32 := by decide
theorem test_witness_DecNlbtAnswers : 0x161FFFFF#32 &&& 0xFFE00000#32 = 0x16000000#32 := by decide
theorem test_witness_DecNrbbAnswers : 0x181FFFFF#32 &&& 0xFFE00000#32 = 0x18000000#32 := by decide
theorem test_witness_DecNrbtAnswers : 0x1A1FFFFF#32 &&& 0xFFE00000#32 = 0x1A000000#32 := by decide
/-- The three classes of `AnswersDecode` at the edges of the block. -/
theorem test_witness_AnswersDecode :
    Braille 0x2800#21 ∧ Braille 0x28FF#21 ∧ ¬ Braille 0x27FF#21 ∧ ¬ Braille 0x2900#21 ∧
    0x0A#21 ∈ State.reset.cfg.sep ∧ ¬ Braille 0x0A#21 ∧ 0x2900#21 ∉ State.reset.cfg.sep := by decide
theorem test_witness_BcdIsNibbleColumnOfPack :
    (99#8).toNat ≤ 99 ∧ State.reset.cfg.bcdTCol = .left ∧ State.reset.cfg.bcdMsbRow = .bottom := by decide
theorem test_witness_CellCodePointInverse : Braille 0x2800#21 ∧ Braille 0x28FF#21 := by decide
theorem test_witness_PlaceAndExtractByDots : 0xB8#8 &&& columnMask .left = 0#8 ∧ 0x47#8 &&& columnMask .right = 0#8 := by decide
theorem test_witness_FullStylesAreBijections :
    Style.direct ≠ .bcd ∧ Braille 0x28FF#21 ∧ Style.nrbt ≠ .bcd ∧ Style.nrbt ≠ .direct ∧
    encUnit Config.standard .nrbt 0x48#8 = encUnit Config.standard .nrbt 0x48#8 := by decide
theorem test_witness_BcdIsABijection :
    (99#8).toNat ≤ 99 ∧ Braille 0x28C9#21 ∧ Answers (.decBcd 0x28C9#21) State.reset .okData 99#16 0#64 :=
  ⟨by decide, by decide, rfl⟩
theorem test_witness_DecUnitIsOneShotDecode : ¬ Braille 0x2900#21 ∧ (0x28FF#21).toNat = 0x2800 + (0xFF#8).toNat := by decide
theorem test_witness_ClassifyIsTotalAndDisjoint : Config.standard.wf = true ∧ 0x0D#21 ∈ Config.standard.sep := by decide
theorem test_witness_OneShotIgnoresRegisters :
    (Instr.decBcd 0x28FF#21).isOneShot = true ∧
    State.reset.cfg = (inCall .dec .nrbt 9 (some .domainError) 9).cfg := by decide
theorem test_witness_StartWritesAllRegisters :
    0x2B000000#32 &&& 0xF0FFFFFF#32 = 0x20000000#32 ∧ reqStyle 0x2B000000#32 ≤ 5#3 ∧
    (∃ t u, exec (.start .dec 5#3) State.reset = .next t ∧ exec (.start .dec 5#3) t = .next u) :=
  ⟨by decide, by decide, _, _, rfl, rfl⟩
theorem test_witness_ContextChangesOnlyByStart :
    (∃ t, step (State.reset.withFetchWord 32 0x2B000000) = .next t ∧ t.style ≠ State.reset.style) ∧ 6#3 ≤ 6#3 :=
  ⟨⟨_, rfl, by decide⟩, by decide⟩
theorem test_witness_StartForgetsTheOldCall :
    State.reset.cfg = (inCall .dec .nrbt 9 (some .domainError) 9).cfg ∧
    State.reset.inputs = (inCall .dec .nrbt 9 (some .domainError) 9).inputs ∧
    State.reset.responses = (inCall .dec .nrbt 9 (some .domainError) 9).responses := by decide
theorem test_witness_PutRepeatsLatchedError :
    (inCall .enc .bcd 2 (some .domainError) 2).fault = some .domainError ∧ (0xFF#21).toNat < 256 ∧
    (inCall .dec .nlbb 2 (some .invalidCharacterError) 2).fault = some .invalidCharacterError ∧
    (inCall .dec .nlbb 2 (some .invalidCharacterError) 2).dir ≠ .enc := by decide
theorem test_witness_PutAcceptsByteInDomain :
    (inCall .enc .bcd (2 ^ 64 - 2) none 0).fault = none ∧ (inCall .enc .bcd (2 ^ 64 - 2) none 0).dir = .enc ∧
    (inCall .enc .bcd (2 ^ 64 - 2) none 0).pos.toNat < 2 ^ 64 - 1 ∧
    encUnit Config.standard .bcd 99#8 = .ok 0x28C9#16 ∧ (99#8).toNat ≤ 99 ∧ Style.direct ≠ .bcd := by decide
theorem test_witness_PutLatchesDomainError :
    (inCall .enc .bcd (2 ^ 64 - 2) none 0).fault = none ∧ (inCall .enc .bcd (2 ^ 64 - 2) none 0).dir = .enc ∧
    (inCall .enc .bcd (2 ^ 64 - 2) none 0).pos.toNat < 2 ^ 64 - 1 ∧
    (inCall .enc .bcd (2 ^ 64 - 2) none 0).style = .bcd ∧ 100 ≤ (100#8).toNat := by decide
/-- Each of the four outcomes of a decoding `PUT` occurs. -/
theorem test_witness_PutDecodesCodePoint :
    (inCall .dec .bcd (2 ^ 64 - 2) none 0).fault = none ∧ (inCall .dec .bcd (2 ^ 64 - 2) none 0).dir = .dec ∧
    (inCall .dec .bcd (2 ^ 64 - 2) none 0).pos.toNat < 2 ^ 64 - 1 ∧
    decUnit Config.standard .bcd 0x28C9#21 = .ok 99#8 ∧ decUnit Config.standard .bcd 0x20#21 = .skip ∧
    decUnit Config.standard .bcd 0x28D1#21 = .err .domainError ∧
    decUnit Config.standard .bcd 0x2900#21 = .err .invalidCharacterError := by decide
theorem test_witness_PutTestsInOrder :
    (inCall .enc .nlbb (2 ^ 64 - 1) (some .domainError) 0).dir = .enc ∧ 256 ≤ (256#21).toNat ∧ (255#21).toNat < 256 ∧
    (inCall .enc .nlbb (2 ^ 64 - 1) (some .domainError) 0).fault ≠ none ∧
    (inCall .enc .nlbb (2 ^ 64 - 1) none 0).fault = none ∧
    (inCall .enc .nlbb (2 ^ 64 - 1) none 0).pos.toNat = 2 ^ 64 - 1 := by decide
theorem test_witness_SequencerAddsNoTransformation :
    (inCall .enc .bcd (2 ^ 64 - 2) none 0).fault = none ∧ (inCall .enc .bcd (2 ^ 64 - 2) none 0).pos.toNat < 2 ^ 64 - 1 ∧
    (inCall .enc .bcd (2 ^ 64 - 2) none 0).dir = .enc ∧ (inCall .dec .bcd 0 none 0).dir = .dec := by decide
/-- `POS` advances in a `PUT`, and returns to 0 in a `START`. -/
theorem test_witness_PosMovesOnlyInCalls :
    (∃ t, step ((inCall .enc .nlbb (2 ^ 64 - 2) none 0).withFetchWord 32 0x30000048) = .next t ∧
      t.pos.toNat = 2 ^ 64 - 1) ∧
    (∃ t, step ((inCall .enc .nlbb 3 none 0).withFetchWord 32 0x24000000) = .next t ∧ t.pos = 0#64) :=
  ⟨⟨_, rfl, by decide⟩, ⟨_, rfl, by decide⟩⟩
theorem test_begins_start : BeginsCall (State.reset.withFetchWord 32 0x24000000) :=
  ⟨_, [], rfl, .inr ⟨_, .enc, 2#3, rfl, by decide⟩⟩
theorem test_begins_reset : BeginsCall (State.reset.withInputs [.reset]) := ⟨.reset, [], rfl, .inl rfl⟩
theorem test_begins_not_stat (s : State) (h : s.inputs = []) : ¬ BeginsCall (s.withFetchWord 32 0x40000000) := by
  rintro ⟨e, rest, hi, he⟩
  simp only [State.withFetchWord, State.present, h, List.cons.injEq] at hi
  obtain ⟨rfl, -⟩ := hi
  rcases he with he | ⟨w, dir, code, hw, hd⟩
  · cases he
  · cases hw
    exact absurd hd (by cases dir <;> revert code <;> decide)
theorem test_witness_LatchedErrorLeftOnlyByNewCall :
    (∃ t, step ((inCall .enc .bcd 2 (some .domainError) 2).withFetchWord 32 0x40000000) = .next t) ∧
    (inCall .enc .bcd 2 (some .domainError) 2).fault ≠ none ∧
    ¬ BeginsCall ((inCall .enc .bcd 2 (some .domainError) 2).withFetchWord 32 0x40000000) ∧
    (∃ t, step (State.reset.withFetchWord 32 0x24000000) = .next t) ∧
    BeginsCall (State.reset.withFetchWord 32 0x24000000) :=
  ⟨⟨_, rfl⟩, by decide, test_begins_not_stat _ rfl, ⟨_, rfl⟩, test_begins_start⟩
theorem test_witness_ErrorLatchedOnlyByPut :
    ∃ t, step ((inCall .dec .nlbb 3 none 0).withFetchWord 32 0x30000041) = .next t ∧
      (inCall .dec .nlbb 3 none 0).fault = none ∧ t.fault = some .invalidCharacterError := ⟨_, rfl, by decide, by decide⟩
theorem test_witness_ParametersAndPastNeverChange :
    ∃ t, step (State.reset.withFetchWord 32 0x30000048) = .next t := ⟨_, rfl⟩
theorem test_witness_EveryStepKeepsInvariant :
    State.reset.Inv ∧ (inCall .enc .bcd 2 (some .domainError) 2).Inv ∧
    ∃ t, step ((inCall .enc .bcd 2 (some .domainError) 2).withFetchWord 32 0x30000007) = .next t :=
  ⟨by unfold State.Inv; decide, by unfold State.Inv; decide, _, rfl⟩
theorem test_witness_ResetMeetsInvariant : Config.standard.wf = true := by decide
theorem test_witness_CallRunsToItsResult :
    (∀ i ∈ [Instr.put 0x48#21, .stat, .decBcd 0x2800#21],
      i.wf = true ∧ i.isStart = false ∧ ∀ u, i = .put u → putLegal .enc u = true) ∧
    ([Instr.put 0x48#21, .stat, .decBcd 0x2800#21].filterMap Instr.putUnit?).length < 2 ^ 64 ∧
    (State.reset.withInputs [.request 0x24000000#32, .request 0x30000048#32, .request 0x40000000#32,
      .request 0x10002800#32, .reset]).inputs =
      (Instr.start .enc Style.nlbb.code :: [Instr.put 0x48#21, .stat, .decBcd 0x2800#21]).map
        (fun i => HostEvent.request (encode i)) ++ [.reset] := by
  refine ⟨?_, by decide, by decide⟩
  intro i hi
  simp only [List.mem_cons, List.not_mem_nil, or_false] at hi
  rcases hi with rfl | rfl | rfl
  · exact ⟨rfl, rfl, fun u hu => by cases hu; decide⟩
  · exact ⟨rfl, rfl, fun u hu => by cases hu⟩
  · exact ⟨rfl, rfl, fun u hu => by cases hu⟩
theorem test_witness_CallAfterResetRunsToItsResult :
    (∀ i ∈ [Instr.put 0xFF#21, .stat],
      i.wf = true ∧ i.isStart = false ∧ ∀ u, i = .put u → putLegal .enc u = true) ∧
    ([Instr.put 0xFF#21, .stat].filterMap Instr.putUnit?).length < 2 ^ 64 ∧
    SameRegisters (State.resetWith State.reset.cfg)
      (State.reset.withInputs [.request 0x300000FF#32, .request 0x40000000#32]) ∧
    (State.reset.withInputs [.request 0x300000FF#32, .request 0x40000000#32]).inputs =
      [Instr.put 0xFF#21, .stat].map (fun i => HostEvent.request (encode i)) ++ [] ∧
    ((inCall .dec .bcd 2 (some .domainError) 2).withInputs
      [.reset, .request 0x300000FF#32, .request 0x40000000#32]).inputs =
      .reset :: [Instr.put 0xFF#21, .stat].map (fun i => HostEvent.request (encode i)) ++ [] := by
  refine ⟨?_, by decide, ⟨rfl, rfl, rfl, rfl, rfl⟩, by decide, by decide⟩
  intro i hi
  simp only [List.mem_cons, List.not_mem_nil, or_false] at hi
  rcases hi with rfl | rfl
  · exact ⟨rfl, rfl, fun u hu => by cases hu; decide⟩
  · exact ⟨rfl, rfl, fun u hu => by cases hu⟩
theorem test_witness_PseudoInstructionsRunToTheirResult :
    [0x48#8].length < 2 ^ 64 ∧
    (State.reset.withInputs [.request 0x24000000#32, .request 0x30000048#32]).inputs =
      (Pseudo.encode none [0x48#8]).expand.map (fun i => HostEvent.request (encode i)) ++ [] ∧
    (State.reset.withInputs [.request 0x21000000#32, .request 0x30002884#32]).inputs =
      (Pseudo.decode (some .bcd) [0x2884#21]).expand.map (fun i => HostEvent.request (encode i)) ++ [] := by decide
theorem test_witness_RoundTripThroughSeparators :
    Config.standard.wf = true ∧ (∀ b ∈ [0#8, 99#8], inDomain .bcd b = true) ∧
    callResult (encUnit Config.standard .bcd) [0#8, 99#8] 0 = .ok [0x2800#16, 0x28C9#16] ∧
    stripSeparators Config.standard [0x20#21, 0x2800#21, 0x0A#21, 0x09#21, 0x28C9#21, 0x0A#21] =
      [0x2800#16, 0x28C9#16].map (·.zeroExtend 21) := by decide
theorem test_witness_WrapInsertsOnlySeparators :
    Config.standard.wf = true ∧ ∀ c ∈ [0x2800#21, 0x28FF#21], Braille c :=
  ⟨by decide, by simp [Braille]⟩
theorem test_witness_HostRoundTripAtAnyWrap :
    Config.standard.wf = true ∧ (∀ b ∈ [0#8, 99#8], inDomain .bcd b = true) ∧
    [99#8, 100#8, 0#8] = [99#8] ++ 100#8 :: [0#8] ∧ (∀ a ∈ [99#8], inDomain .bcd a = true) ∧
    inDomain .bcd 100#8 = false := by decide

end Sys2Proof.Tests
end

section
/-!
PROOFS. The obligations about the architectural state (10_state): first what a one-shot command, a `START` and a step can do,
said once; then the obligations, each read off from these.
-/

namespace Sys2Proof.Machine

/-! ### One-shot commands -/

/-- A one-shot command is `ENC` or `DEC` of some style (R41). -/
theorem eq_encOf_or_decOf_of_isOneShot {i : Instr} (h : i.isOneShot = true) :
    ∃ sty, (∃ b, i = .encOf sty b) ∨ (∃ c, i = .decOf sty c) := by
  cases i with
  | encBcd b => exact ⟨.bcd, .inl ⟨b, rfl⟩⟩
  | encDirect b => exact ⟨.direct, .inl ⟨b, rfl⟩⟩
  | encNlbb b => exact ⟨.nlbb, .inl ⟨b, rfl⟩⟩
  | encNlbt b => exact ⟨.nlbt, .inl ⟨b, rfl⟩⟩
  | encNrbb b => exact ⟨.nrbb, .inl ⟨b, rfl⟩⟩
  | encNrbt b => exact ⟨.nrbt, .inl ⟨b, rfl⟩⟩
  | decBcd c => exact ⟨.bcd, .inr ⟨c, rfl⟩⟩
  | decDirect c => exact ⟨.direct, .inr ⟨c, rfl⟩⟩
  | decNlbb c => exact ⟨.nlbb, .inr ⟨c, rfl⟩⟩
  | decNlbt c => exact ⟨.nlbt, .inr ⟨c, rfl⟩⟩
  | decNrbb c => exact ⟨.nrbb, .inr ⟨c, rfl⟩⟩
  | decNrbt c => exact ⟨.nrbt, .inr ⟨c, rfl⟩⟩
  | start _ _ | put _ | stat => cases h

/-- A one-shot command is no `START`. -/
theorem isStart_eq_false_of_isOneShot {i : Instr} (h : i.isOneShot = true) : i.isStart = false := by
  cases i with
  | start dir code => cases h
  | _ => rfl

/-- `ENC` of any style answers with its `EncUnit`, of which only the parameters are an input (R101). -/
theorem exec_encOf (sty : Style) (b : Byte) (s : State) :
    exec (.encOf sty b) s = .next (s.answerEnc (encUnit s.cfg sty b)) := by
  cases sty <;> rfl

/-- `DEC` of any style answers with its `DecUnit`, of which only the parameters are an input (R102). -/
theorem exec_decOf (sty : Style) (c : CodePoint) (s : State) :
    exec (.decOf sty c) s = .next (s.answerDec (decUnit s.cfg sty c)) := by
  cases sty <;> rfl

/-- The response to a one-shot encode is fixed by the unit's result: it is the same in every state. -/
theorem answerEnc_uniform (r : UnitResult OutUnit) :
    ∃ st d, ∀ s : State, s.answerEnc r = s.respond st d 0#64 := by
  cases r <;> exact ⟨_, _, fun _ => rfl⟩

/-- The response to a one-shot decode is fixed by the unit's result: it is the same in every state. -/
theorem answerDec_uniform (r : UnitResult Byte) :
    ∃ st d, ∀ s : State, s.answerDec r = s.respond st d 0#64 := by
  cases r <;> exact ⟨_, _, fun _ => rfl⟩

/-- The answer of a one-shot command is fixed by the parameters: one response fits every state that has them. -/
theorem oneShot_answers_of_cfg {i : Instr} (h : i.isOneShot = true) (g : Config) :
    ∃ st d, ∀ s : State, s.cfg = g → Answers i s st d 0#64 := by
  obtain ⟨sty, ⟨b, rfl⟩ | ⟨c, rfl⟩⟩ := eq_encOf_or_decOf_of_isOneShot h
  · obtain ⟨st, d, hr⟩ := answerEnc_uniform (encUnit g sty b)
    refine ⟨st, d, fun s hs => ?_⟩
    subst hs
    exact (exec_encOf sty b s).trans (congrArg _ (hr s))
  · obtain ⟨st, d, hr⟩ := answerDec_uniform (decUnit g sty c)
    refine ⟨st, d, fun s hs => ?_⟩
    subst hs
    exact (exec_decOf sty c s).trans (congrArg _ (hr s))

/-! ### `START` -/

/-- `START` with the code of a style begins the call and answers `(OK_NODATA, 0, 0)` (R103). -/
theorem exec_start_of_ofCode {code : BitVec 3} {sty : Style} (h : Style.ofCode code = some sty)
    (dir : Direction) (s : State) :
    exec (.start dir code) s = .next ((s.startCall dir sty).respond .okNoData 0#16 0#64) := by
  simp only [exec, execStart, h]

/-- `START` with a code that no style has is refused (R14). -/
theorem exec_start_of_ofCode_none {code : BitVec 3} (h : Style.ofCode code = none) (dir : Direction) (s : State) :
    exec (.start dir code) s = .refused (.reserved .styleCode) := by
  simp only [exec, execStart, h]

/-- The codes 6 and 7 have no style (R44). -/
theorem ofCode_eq_none {code : BitVec 3} (h : 6#3 ≤ code) : Style.ofCode code = none := by
  revert code
  decide

/-- A call begins the same from two states that agree but for the five registers: all five are overwritten. -/
theorem startCall_congr {s₁ s₂ : State} (hcfg : s₁.cfg = s₂.cfg) (hin : s₁.inputs = s₂.inputs)
    (hresp : s₁.responses = s₂.responses) (dir : Direction) (sty : Style) :
    s₁.startCall dir sty = s₂.startCall dir sty := by
  simp only [State.startCall, hcfg, hin, hresp]

/-! ### What a step can do -/

/-- What one step makes of a state: nothing with no event presented, a reset, or one request: a `START`, a request that only
answers, a `PUT` whose unit is accepted, or a `PUT` whose unit latches an error. -/
inductive StepEffect (s : State) : State → Prop
  | idle (hin : s.inputs = []) : StepEffect s s
  | reset (rest : List HostEvent) (hin : s.inputs = .reset :: rest) :
      StepEffect s (s.withInputs rest).resetRegisters
  | start (w : Request) (rest : List HostEvent) (dir : Direction) (code : BitVec 3) (sty : Style)
      (hin : s.inputs = .request w :: rest) (hdec : decode w = .ok (.start dir code))
      (hsty : Style.ofCode code = some sty) :
      StepEffect s (((s.withInputs rest).startCall dir sty).respond .okNoData 0#16 0#64)
  | answer (w : Request) (rest : List HostEvent) (i : Instr) (st : Status) (d : OutUnit) (p : Position)
      (hin : s.inputs = .request w :: rest) (hdec : decode w = .ok i) (hstart : i.isStart = false) :
      StepEffect s ((s.withInputs rest).respond st d p)
  | accept (w : Request) (rest : List HostEvent) (u : CodePoint) (st : Status) (d : OutUnit)
      (hin : s.inputs = .request w :: rest) (hdec : decode w = .ok (.put u))
      (hfault : s.fault = none) (hpos : s.pos ≠ lastPosition) :
      StepEffect s ((s.withInputs rest).acceptUnit st d)
  | latch (w : Request) (rest : List HostEvent) (u : CodePoint) (k : ErrorKind)
      (hin : s.inputs = .request w :: rest) (hdec : decode w = .ok (.put u))
      (hfault : s.fault = none) (hunit : unitOf s.cfg s.dir s.style u = .err k) :
      StepEffect s ((s.withInputs rest).raiseInCall k)

/-- Every step that gives a next state has one of the effects of `StepEffect`. -/
theorem step_effect {s t : State} (h : step s = .next t) : StepEffect s t := by
  obtain ⟨hin, rfl⟩ | ⟨rest, hin, rfl⟩ | ⟨w, rest, i, hin, hdec, hexec⟩ := step_next h
  · exact .idle hin
  · exact .reset rest hin
  · obtain ⟨hone, st, d, rfl⟩ | ⟨dir, code, sty, rfl, hsty, rfl⟩ | ⟨u, rfl, -, hput⟩ | ⟨rfl, st, p, rfl⟩ :=
      exec_next hexec
    · exact .answer w rest i st d _ hin hdec (isStart_eq_false_of_isOneShot hone)
    · exact .start w rest dir code sty hin hdec hsty
    · obtain ⟨k, -, rfl⟩ | ⟨hfault, hpos, rfl⟩ := hput
      · exact .answer w rest _ _ _ _ hin hdec rfl
      · obtain ⟨st, d, -, ht⟩ | ⟨k, hunit, ht⟩ := putResult_cases (s.withInputs rest) (unitOf s.cfg s.dir s.style u)
        · exact ht ▸ .accept w rest u st d hin hdec hfault hpos
        · exact ht ▸ .latch w rest u k hin hdec hfault hunit
    · exact .answer w rest _ st _ p hin hdec rfl

/-- A reset presented next begins a call (R110). -/
theorem beginsCall_of_reset {s : State} {rest : List HostEvent} (hin : s.inputs = .reset :: rest) : BeginsCall s :=
  ⟨_, rest, hin, .inl rfl⟩

/-- A `START` presented next begins a call (R110). -/
theorem beginsCall_of_start {s : State} {w : Request} {rest : List HostEvent} {dir : Direction} {code : BitVec 3}
    (hin : s.inputs = .request w :: rest) (hdec : decode w = .ok (.start dir code)) : BeginsCall s :=
  ⟨_, rest, hin, .inr ⟨w, dir, code, rfl, hdec⟩⟩

/-- Below the last position, the next position does not wrap (R13). -/
theorem toNat_add_one_of_ne_lastPosition {p : Position} (h : p ≠ lastPosition) :
    (p + 1#64).toNat = p.toNat + 1 := by
  have hne : p.toNat ≠ 2 ^ 64 - 1 := fun hp => h (BitVec.eq_of_toNat_eq (by simpa [lastPosition] using hp))
  have hlt : p.toNat < 2 ^ 64 := p.isLt
  rw [BitVec.toNat_add, BitVec.toNat_ofNat]
  omega

/-! ### The obligations -/

/-- Settles O34: the answer is fixed by the parameters, which both states share. -/
theorem oneShotIgnoresRegisters : Obligations.OneShotIgnoresRegisters := by
  intro i s₁ s₂ hone hcfg
  obtain ⟨st, d, hans⟩ := oneShot_answers_of_cfg hone s₁.cfg
  exact ⟨st, d, hans s₁ rfl, hans s₂ hcfg.symm⟩

/-- A step whose event does not begin a call keeps the call's context (R14). -/
theorem context_eq_of_not_beginsCall {s t : State} (h : step s = .next t) (hb : ¬ BeginsCall s) :
    t.style = s.style ∧ t.dir = s.dir := by
  cases step_effect h with
  | reset rest hin => exact absurd (beginsCall_of_reset hin) hb
  | start w rest dir code sty hin hdec => exact absurd (beginsCall_of_start hin hdec) hb
  | idle | answer | accept | latch => exact ⟨rfl, rfl⟩

/-- Settles O36: every step but a reset and a `START` keeps the context, and `START` tests its style code first. -/
theorem contextChangesOnlyByStart : Obligations.ContextChangesOnlyByStart := by
  refine ⟨fun s t h hchange => ?_, fun dir code s hcode => ?_, fun dir sty s => ?_⟩
  · by_contra hb
    obtain ⟨hstyle, hdir⟩ := context_eq_of_not_beginsCall h hb
    exact hchange.elim (· hstyle) (· hdir)
  · exact exec_start_of_ofCode_none (ofCode_eq_none hcode) dir s
  · exact ⟨_, exec_start_of_ofCode (ofCode_code sty) dir s, rfl, rfl⟩

/-- Settles O45: by the effect of the step; an accepted unit is not at the last position, so `POS` does not wrap. -/
theorem posMovesOnlyInCalls : Obligations.PosMovesOnlyInCalls := by
  intro s t h
  cases step_effect h with
  | reset rest hin => exact .inr (.inr ⟨rfl, beginsCall_of_reset hin⟩)
  | start w rest dir code sty hin hdec => exact .inr (.inr ⟨rfl, beginsCall_of_start hin hdec⟩)
  | accept w rest u st d hin hdec hfault hpos =>
    exact .inr (.inl ⟨toNat_add_one_of_ne_lastPosition hpos, hfault, hfault, w, rest, u, hin, hdec⟩)
  | idle | answer | latch => exact .inl rfl

/-- Settles O47: of the effects a step can have, only the latching of an error sets `FAULT`. -/
theorem errorLatchedOnlyByPut : Obligations.ErrorLatchedOnlyByPut := by
  intro s t k h hnone hk
  cases step_effect h with
  | latch w rest u k' hin hdec _ hunit =>
    obtain rfl : k' = k := Option.some.inj hk
    exact ⟨⟨w, rest, u, hin, hdec, hunit⟩, rfl, rfl, rfl, rfl, k'.status, rfl, rfl⟩
  | reset | start => cases hk
  | idle | answer | accept => cases hnone.symm.trans hk

/-- Settles O48: a step leaves the responses, or adds the one of its request. -/
theorem parametersAndPastNeverChange : Obligations.ParametersAndPastNeverChange := by
  intro s t h
  cases step_effect h with
  | idle | reset => exact ⟨rfl, [], (List.append_nil _).symm, Nat.zero_le 1⟩
  | start | answer | accept | latch => exact ⟨rfl, _, rfl, Nat.le_refl 1⟩

/-- Settles O9: a `START` with `dir` 0 and the code of `nlbb` writes the registers a reset writes. -/
theorem resetValuesAreStartEncNlbb : Obligations.ResetValuesAreStartEncNlbb := by
  intro g
  refine ⟨rfl, rfl, rfl, rfl, rfl, fun s => ?_⟩
  exact ⟨_, exec_start_of_ofCode (ofCode_code .nlbb) .enc s, rfl, rfl, rfl, rfl, rfl⟩

/-- Settles O37: a `START` with a reserved code is refused in every state; any other overwrites all five registers. -/
theorem startForgetsTheOldCall : Obligations.StartForgetsTheOldCall := by
  intro dir code s₁ s₂ hcfg hin hresp
  cases hcode : Style.ofCode code with
  | none => rw [exec_start_of_ofCode_none hcode, exec_start_of_ofCode_none hcode]
  | some sty =>
    rw [exec_start_of_ofCode hcode, exec_start_of_ofCode hcode, startCall_congr hcfg hin hresp]

end Sys2Proof.Machine
end

section
/-!
PROOFS. The obligation about the handling of requests (20_memory section 6): what a step makes of a request presented next,
whatever else is pending, and what presenting a request and taking it again leaves of the state.
-/

namespace Sys2Proof.Machine

/-- A word that decodes is handled by running its instruction (R33). -/
theorem handleRequest_of_decode {w : Request} {i : Instr} (h : decode w = .ok i) (s : State) :
    s.handleRequest w = exec i s := by
  simp only [State.handleRequest, h]

/-- With a request presented whose word decodes, a step takes it and runs its instruction (R33, R34). -/
theorem step_of_request {s : State} {w : Request} {rest : List HostEvent} {i : Instr}
    (hin : s.inputs = .request w :: rest) (hdec : decode w = .ok i) : step s = exec i (s.withInputs rest) :=
  (step_of_cons hin).trans (handleRequest_of_decode hdec (s.withInputs rest))

/-- Taking the request that was presented last gives the state back. -/
@[simp] theorem present_withInputs (s : State) (w : Request) : (s.present w).withInputs s.inputs = s := rfl

/-- Presenting a word of 32 bits or fewer presents all of it (R40). -/
theorem withFetchWord_eq_present {w : Nat} (h : w < 2 ^ 32) (s : State) :
    s.withFetchWord 32 w = s.present (BitVec.ofNat 32 w) := by
  simp only [State.withFetchWord, Nat.mod_eq_of_lt h]

/-- Settles O5: a step takes the request and runs its instruction; with the request put there by `withFetchWord`, what is
left once it is taken is the state before. -/
theorem stepRunsDecodedInstruction : Obligations.StepRunsDecodedInstruction := by
  refine ⟨fun s w rest i hin hdec => step_of_request hin hdec, fun s w i hw hdec => ?_⟩
  calc step (s.withFetchWord 32 w)
    _ = step (s.present (BitVec.ofNat 32 w)) := by rw [withFetchWord_eq_present hw]
    _ = exec i ((s.present (BitVec.ofNat 32 w)).withInputs s.inputs) := step_of_request (present_inputs s _) hdec
    _ = exec i s := by rw [present_withInputs]

end Sys2Proof.Machine
end

section
/-!
PROOFS. The request word (30_encoding): its five fields, the words of R42 as a relation between words and instructions, and
the decoder and the encoder as the two readings of that relation; then the obligations about decoding.
-/

namespace Sys2Proof

/-! ### The fields of a request word (R40) -/

/-- A request word is its five fields, side by side (R40). -/
theorem fields_append (w : Request) :
    (reqCmd w ++ reqStyle w ++ reqDir w ++ reqRsv w ++ reqData w : BitVec 32) = w := by
  unfold reqCmd reqStyle reqDir reqRsv reqData
  rw [BitVec.extractLsb'_append_extractLsb'_eq_extractLsb' (show 28 = 25 + 3 from rfl),
    BitVec.extractLsb'_append_extractLsb'_eq_extractLsb' (show 25 = 24 + 1 from rfl),
    BitVec.extractLsb'_append_extractLsb'_eq_extractLsb' (show 24 = 21 + 3 from rfl),
    BitVec.extractLsb'_append_extractLsb'_eq_extractLsb' (show 21 = 0 + 21 from rfl)]
  exact BitVec.extractLsb'_eq_self

/-- Two request words are equal when their fields are. -/
theorem request_ext {w v : Request} (hcmd : reqCmd w = reqCmd v) (hstyle : reqStyle w = reqStyle v)
    (hdir : reqDir w = reqDir v) (hrsv : reqRsv w = reqRsv v) (hdata : reqData w = reqData v) : w = v := by
  rw [← fields_append w, ← fields_append v, hcmd, hstyle, hdir, hrsv, hdata]

/-- A word with the reserved bits 0 is assembled from its other fields (R40, R53). -/
theorem eq_assemble_of_reqRsv {w : Request} (h : reqRsv w = 0#3) :
    w = assemble (reqCmd w) (reqStyle w) (reqDir w) (reqData w) :=
  request_ext (reqCmd_assemble ..).symm (reqStyle_assemble ..).symm (reqDir_assemble ..).symm
    (h.trans (Laws.reqRsv_assemble ..).symm) (reqData_assemble ..).symm

/-! ### The codes and the byte operand (R44, R45) -/

/-- A code names the one style it is the code of. -/
theorem ofCode_eq_some {k : BitVec 3} {sty : Style} : Style.ofCode k = some sty ↔ k = sty.code := by
  cases sty <;> revert k <;> decide

/-- A code up to 5 is the code of a style. -/
theorem exists_code_of_le {k : BitVec 3} (h : k ≤ 5#3) : ∃ sty : Style, k = sty.code := by
  have hsome : (Style.ofCode k).isSome = true := by simpa [ofCode_isSome] using h
  obtain ⟨sty, hsty⟩ := Option.isSome_iff_exists.mp hsome
  exact ⟨sty, ofCode_eq_some.mp hsty⟩

/-- The code of a style is at most 5. -/
theorem code_le (sty : Style) : sty.code ≤ 5#3 := by
  cases sty <;> decide

/-- The bit of a direction read from a bit is that bit. -/
theorem code_ofCode_direction (d : BitVec 1) : (Direction.ofCode d).code = d := by
  revert d
  decide

/-- A byte, zero-extended, has bits 20 to 8 zero. -/
theorem extract_high_zeroExtend (b : Byte) : (b.zeroExtend 21).extractLsb' 8 13 = 0#13 := by
  ext j hj
  simp

/-- The low byte of a zero-extended byte is that byte. -/
theorem extract_low_zeroExtend (b : Byte) : (b.zeroExtend 21).extractLsb' 0 8 = b := by
  ext j hj
  simp [hj]
  omega

/-- An operand with bits 20 to 8 zero is its low byte, zero-extended. -/
theorem eq_zeroExtend_of_extract_high {d : CodePoint} (h : d.extractLsb' 8 13 = 0#13) :
    d = (d.extractLsb' 0 8).zeroExtend 21 := by
  have hd : d = (0#13 ++ d.extractLsb' 0 8 : BitVec 21) := by
    rw [← h, BitVec.extractLsb'_append_extractLsb'_eq_extractLsb' (show 8 = 0 + 8 from rfl), BitVec.extractLsb'_eq_self]
  exact hd.trans (BitVec.setWidth_eq_append (by decide)).symm

/-- The byte operand of R45 is the byte whose zero extension the `data` field is. -/
theorem byteOperand_eq_some {d : CodePoint} {b : Byte} : byteOperand d = some b ↔ d = b.zeroExtend 21 := by
  unfold byteOperand
  constructor
  · intro h
    split at h
    · next hhigh =>
      obtain rfl := Option.some.inj h
      exact eq_zeroExtend_of_extract_high hhigh
    · cases h
  · rintro rfl
    rw [if_pos (extract_high_zeroExtend b), extract_low_zeroExtend]

/-! ### The words of R42 -/

/-- The words of R42: `IsWordOf w i` says that `w` is the word of the well-formed instruction `i`, one rule for each group of
commands. -/
inductive IsWordOf : Request → Instr → Prop
  | enc (sty : Style) (b : Byte) : IsWordOf (assemble 0#4 sty.code 0#1 (b.zeroExtend 21)) (.encOf sty b)
  | dec (sty : Style) (c : CodePoint) : IsWordOf (assemble 1#4 sty.code 0#1 c) (.decOf sty c)
  | start (dir : Direction) (sty : Style) : IsWordOf (assemble 2#4 sty.code dir.code 0#21) (.start dir sty.code)
  | put (u : CodePoint) : IsWordOf (assemble 3#4 0#3 0#1 u) (.put u)
  | stat : IsWordOf (assemble 4#4 0#3 0#1 0#21) .stat

/-- The word of `ENC` in any style (R42). -/
theorem encode_encOf (sty : Style) (b : Byte) :
    encode (.encOf sty b) = assemble 0#4 sty.code 0#1 (b.zeroExtend 21) := by
  cases sty <;> rfl

/-- The word of `DEC` in any style (R42). -/
theorem encode_decOf (sty : Style) (c : CodePoint) : encode (.decOf sty c) = assemble 1#4 sty.code 0#1 c := by
  cases sty <;> rfl

theorem wf_encOf (sty : Style) (b : Byte) : (Instr.encOf sty b).wf = true := by
  cases sty <;> rfl

theorem wf_decOf (sty : Style) (c : CodePoint) : (Instr.decOf sty c).wf = true := by
  cases sty <;> rfl

/-- `START` is well formed with the code of a style, and with no other (R44). -/
theorem wf_start {dir : Direction} {code : BitVec 3} : (Instr.start dir code).wf = true ↔ code ≤ 5#3 := by
  simp [Instr.wf]

/-- The encoder writes the word of R42. -/
theorem IsWordOf.encode_eq {w : Request} {i : Instr} (h : IsWordOf w i) : encode i = w := by
  cases h with
  | enc sty b => exact encode_encOf sty b
  | dec sty c => exact encode_decOf sty c
  | start | put | stat => rfl

/-- An instruction that has a word is well formed. -/
theorem IsWordOf.wf {w : Request} {i : Instr} (h : IsWordOf w i) : i.wf = true := by
  cases h with
  | enc sty b => exact wf_encOf sty b
  | dec sty c => exact wf_decOf sty c
  | start dir sty => exact wf_start.mpr (code_le sty)
  | put | stat => rfl

/-- The encoder gives every well-formed instruction a word of R42. -/
theorem isWordOf_encode {i : Instr} (h : i.wf = true) : IsWordOf (encode i) i := by
  cases i with
  | start dir code =>
    obtain ⟨sty, rfl⟩ := exists_code_of_le (wf_start.mp h)
    exact .start dir sty
  | put u => exact .put u
  | stat => exact .stat
  | encBcd b => exact .enc .bcd b
  | encDirect b => exact .enc .direct b
  | encNlbb b => exact .enc .nlbb b
  | encNlbt b => exact .enc .nlbt b
  | encNrbb b => exact .enc .nrbb b
  | encNrbt b => exact .enc .nrbt b
  | decBcd c => exact .dec .bcd c
  | decDirect c => exact .dec .direct c
  | decNlbb c => exact .dec .nlbb c
  | decNlbt c => exact .dec .nlbt c
  | decNrbb c => exact .dec .nrbb c
  | decNrbt c => exact .dec .nrbt c

/-! ### The decoder, from the fields of the word -/

/-- A word with the fields of an `ENC` decodes to it. -/
theorem decode_of_enc_fields {w : Request} {sty : Style} {b : Byte} (hrsv : reqRsv w = 0#3) (hcmd : reqCmd w = 0#4)
    (hstyle : reqStyle w = sty.code) (hdir : reqDir w = 0#1) (hdata : reqData w = b.zeroExtend 21) :
    decode w = .ok (.encOf sty b) := by
  simp [decode, decodeEnc, hrsv, hcmd, hdir, byteOperand_eq_some.mpr hdata, ofCode_eq_some.mpr hstyle]

/-- A word with the fields of a `DEC` decodes to it. -/
theorem decode_of_dec_fields {w : Request} {sty : Style} {c : CodePoint} (hrsv : reqRsv w = 0#3) (hcmd : reqCmd w = 1#4)
    (hstyle : reqStyle w = sty.code) (hdir : reqDir w = 0#1) (hdata : reqData w = c) :
    decode w = .ok (.decOf sty c) := by
  simp [decode, decodeDec, hrsv, hcmd, hdir, hdata, ofCode_eq_some.mpr hstyle]

/-- A word with the fields of a `START` decodes to it. -/
theorem decode_of_start_fields {w : Request} {sty : Style} {dir : Direction} (hrsv : reqRsv w = 0#3)
    (hcmd : reqCmd w = 2#4) (hstyle : reqStyle w = sty.code) (hdir : reqDir w = dir.code) (hdata : reqData w = 0#21) :
    decode w = .ok (.start dir sty.code) := by
  simp [decode, decodeStart, hrsv, hcmd, hstyle, hdir, hdata, ofCode_code, ofCode_direction_code]

/-- A word with the fields of a `PUT` decodes to it. -/
theorem decode_of_put_fields {w : Request} {u : CodePoint} (hrsv : reqRsv w = 0#3) (hcmd : reqCmd w = 3#4)
    (hstyle : reqStyle w = 0#3) (hdir : reqDir w = 0#1) (hdata : reqData w = u) : decode w = .ok (.put u) := by
  simp [decode, decodePut, hrsv, hcmd, hstyle, hdir, hdata]

/-- A word with the fields of `STAT` decodes to it. -/
theorem decode_of_stat_fields {w : Request} (hrsv : reqRsv w = 0#3) (hcmd : reqCmd w = 4#4) (hstyle : reqStyle w = 0#3)
    (hdir : reqDir w = 0#1) (hdata : reqData w = 0#21) : decode w = .ok .stat := by
  simp [decode, decodeStat, hrsv, hcmd, hstyle, hdir, hdata]

/-- The decoder reads the word of an instruction as that instruction. -/
theorem IsWordOf.decode_eq {w : Request} {i : Instr} (h : IsWordOf w i) : decode w = .ok i := by
  have hrsv := Laws.reqRsv_assemble
  cases h with
  | enc sty b =>
    exact decode_of_enc_fields (hrsv ..) (reqCmd_assemble ..) (reqStyle_assemble ..) (reqDir_assemble ..)
      (reqData_assemble ..)
  | dec sty c =>
    exact decode_of_dec_fields (hrsv ..) (reqCmd_assemble ..) (reqStyle_assemble ..) (reqDir_assemble ..)
      (reqData_assemble ..)
  | start dir sty =>
    exact decode_of_start_fields (hrsv ..) (reqCmd_assemble ..) (reqStyle_assemble ..) (reqDir_assemble ..)
      (reqData_assemble ..)
  | put u =>
    exact decode_of_put_fields (hrsv ..) (reqCmd_assemble ..) (reqStyle_assemble ..) (reqDir_assemble ..)
      (reqData_assemble ..)
  | stat =>
    exact decode_of_stat_fields (hrsv ..) (reqCmd_assemble ..) (reqStyle_assemble ..) (reqDir_assemble ..)
      (reqData_assemble ..)

/-! ### What the decoder accepts -/

/-- The only words `decodeEnc` accepts have the fields of an `ENC`. -/
theorem decodeEnc_eq_ok {w : Request} {i : Instr} (h : decodeEnc w = .ok i) :
    ∃ sty b, i = .encOf sty b ∧ reqStyle w = sty.code ∧ reqDir w = 0#1 ∧ reqData w = b.zeroExtend 21 := by
  unfold decodeEnc at h
  split at h
  · cases h
  · next hdir =>
    split at h
    · cases h
    · next b hb =>
      split at h
      · cases h
      · next sty hsty =>
        cases h
        exact ⟨sty, b, rfl, ofCode_eq_some.mp hsty, not_not.mp hdir, byteOperand_eq_some.mp hb⟩

/-- The only words `decodeDec` accepts have the fields of a `DEC`. -/
theorem decodeDec_eq_ok {w : Request} {i : Instr} (h : decodeDec w = .ok i) :
    ∃ sty c, i = .decOf sty c ∧ reqStyle w = sty.code ∧ reqDir w = 0#1 ∧ reqData w = c := by
  unfold decodeDec at h
  split at h
  · cases h
  · next hdir =>
    split at h
    · cases h
    · next sty hsty =>
      cases h
      exact ⟨sty, _, rfl, ofCode_eq_some.mp hsty, not_not.mp hdir, rfl⟩

/-- The only words `decodeStart` accepts have the fields of a `START`. -/
theorem decodeStart_eq_ok {w : Request} {i : Instr} (h : decodeStart w = .ok i) :
    ∃ (sty : Style) (dir : Direction),
      i = .start dir sty.code ∧ reqStyle w = sty.code ∧ reqDir w = dir.code ∧ reqData w = 0#21 := by
  unfold decodeStart at h
  split at h
  · cases h
  · next hdata =>
    split at h
    · cases h
    · next sty hsty =>
      cases h
      have hstyle := ofCode_eq_some.mp hsty
      exact ⟨sty, _, by rw [hstyle], hstyle, (code_ofCode_direction _).symm, not_not.mp hdata⟩

/-- The only words `decodePut` accepts have the fields of a `PUT`. -/
theorem decodePut_eq_ok {w : Request} {i : Instr} (h : decodePut w = .ok i) :
    ∃ u, i = .put u ∧ reqStyle w = 0#3 ∧ reqDir w = 0#1 ∧ reqData w = u := by
  unfold decodePut at h
  split_ifs at h with hstyle hdir
  cases h
  exact ⟨_, rfl, not_not.mp hstyle, not_not.mp hdir, rfl⟩

/-- The only words `decodeStat` accepts have the fields of `STAT`. -/
theorem decodeStat_eq_ok {w : Request} {i : Instr} (h : decodeStat w = .ok i) :
    i = .stat ∧ reqStyle w = 0#3 ∧ reqDir w = 0#1 ∧ reqData w = 0#21 := by
  unfold decodeStat at h
  split_ifs at h with hstyle hdir hdata
  cases h
  exact ⟨rfl, not_not.mp hstyle, not_not.mp hdir, not_not.mp hdata⟩

/-- A word that decodes has `rsv` 0 and is read by the decoder of its command. -/
theorem decode_eq_ok {w : Request} {i : Instr} (h : decode w = .ok i) :
    reqRsv w = 0#3 ∧
    (reqCmd w = 0#4 ∧ decodeEnc w = .ok i ∨ reqCmd w = 1#4 ∧ decodeDec w = .ok i ∨
      reqCmd w = 2#4 ∧ decodeStart w = .ok i ∨ reqCmd w = 3#4 ∧ decodePut w = .ok i ∨
      reqCmd w = 4#4 ∧ decodeStat w = .ok i) := by
  unfold decode at h
  split_ifs at h with hrsv h0 h1 h2 h3 h4 <;> exact ⟨not_not.mp hrsv, by simp [*]⟩

/-- A word that decodes is the word of R42 of its instruction. -/
theorem isWordOf_of_decode {w : Request} {i : Instr} (h : decode w = .ok i) : IsWordOf w i := by
  obtain ⟨hrsv, ⟨hcmd, h⟩ | ⟨hcmd, h⟩ | ⟨hcmd, h⟩ | ⟨hcmd, h⟩ | ⟨hcmd, h⟩⟩ := decode_eq_ok h
  · obtain ⟨sty, b, rfl, hstyle, hdir, hdata⟩ := decodeEnc_eq_ok h
    rw [eq_assemble_of_reqRsv hrsv, hcmd, hstyle, hdir, hdata]
    exact .enc sty b
  · obtain ⟨sty, c, rfl, hstyle, hdir, hdata⟩ := decodeDec_eq_ok h
    rw [eq_assemble_of_reqRsv hrsv, hcmd, hstyle, hdir, hdata]
    exact .dec sty c
  · obtain ⟨sty, dir, rfl, hstyle, hdir, hdata⟩ := decodeStart_eq_ok h
    rw [eq_assemble_of_reqRsv hrsv, hcmd, hstyle, hdir, hdata]
    exact .start dir sty
  · obtain ⟨u, rfl, hstyle, hdir, hdata⟩ := decodePut_eq_ok h
    rw [eq_assemble_of_reqRsv hrsv, hcmd, hstyle, hdir, hdata]
    exact .put u
  · obtain ⟨rfl, hstyle, hdir, hdata⟩ := decodeStat_eq_ok h
    rw [eq_assemble_of_reqRsv hrsv, hcmd, hstyle, hdir, hdata]
    exact .stat

/-! ### The obligations about the decoder and the encoder -/

/-- Settles O2: the encoder writes the word of R42, which the decoder reads back. -/
theorem decodeEncodeRoundTrip : Obligations.DecodeEncodeRoundTrip :=
  fun _ hwf => (isWordOf_encode hwf).decode_eq

/-- Settles O3: a word that decodes is the word of R42 of its instruction. -/
theorem decodedWordIsItsEncoding : Obligations.DecodedWordIsItsEncoding :=
  fun _ _ hdec => ⟨(isWordOf_of_decode hdec).wf, (isWordOf_of_decode hdec).encode_eq⟩

/-- Settles O1: the decoder computes each of the words. -/
theorem workedWordsDecode : Obligations.WorkedWordsDecode := by
  unfold Obligations.WorkedWordsDecode
  decide

end Sys2Proof
end

section
/-!
PROOFS. The match and mask table of R43 and the reserved words of R50, both read off the fields of the word.
-/

namespace Sys2Proof

open Machine

/-! ### The table of R43 -/

/-- A word is assembled from given fields when it has them, and `rsv` 0 (R40). -/
theorem eq_assemble_iff {w : Request} {cmd : BitVec 4} {style : BitVec 3} {dir : BitVec 1} {data : CodePoint} :
    w = assemble cmd style dir data ↔
      reqCmd w = cmd ∧ reqStyle w = style ∧ reqDir w = dir ∧ reqRsv w = 0#3 ∧ reqData w = data := by
  constructor
  · rintro rfl
    exact ⟨reqCmd_assemble .., reqStyle_assemble .., reqDir_assemble .., Laws.reqRsv_assemble .., reqData_assemble ..⟩
  · rintro ⟨rfl, rfl, rfl, hrsv, rfl⟩
    exact eq_assemble_of_reqRsv hrsv

/-- A masked word is assembled from given fields when the masked fields are these; every mask of the table has all of `cmd`
and `rsv` (R43). -/
theorem and_eq_assemble_iff {w m : Request} {cmd : BitVec 4} {style : BitVec 3} {dir : BitVec 1} {data : CodePoint}
    (hcmd : reqCmd m = .allOnes 4) (hrsv : reqRsv m = .allOnes 3) :
    w &&& m = assemble cmd style dir data ↔
      reqCmd w = cmd ∧ reqStyle w &&& reqStyle m = style ∧ reqDir w &&& reqDir m = dir ∧ reqRsv w = 0#3 ∧
        reqData w &&& reqData m = data := by
  have hcmd' : reqCmd (w &&& m) = reqCmd w := by
    rw [← BitVec.and_allOnes (x := reqCmd w), ← hcmd]
    exact BitVec.extractLsb'_and
  have hrsv' : reqRsv (w &&& m) = reqRsv w := by
    rw [← BitVec.and_allOnes (x := reqRsv w), ← hrsv]
    exact BitVec.extractLsb'_and
  have hstyle : reqStyle (w &&& m) = reqStyle w &&& reqStyle m := BitVec.extractLsb'_and
  have hdir : reqDir (w &&& m) = reqDir w &&& reqDir m := BitVec.extractLsb'_and
  have hdata : reqData (w &&& m) = reqData w &&& reqData m := BitVec.extractLsb'_and
  rw [eq_assemble_iff, hcmd', hstyle, hdir, hrsv', hdata]

/-- The same where the mask has all of `style` and `dir` too, as every mask of the table but `START`'s has (R43). -/
theorem and_eq_assemble_iff_of_full {w m : Request} {cmd : BitVec 4} {style : BitVec 3} {dir : BitVec 1}
    {data : CodePoint} (hcmd : reqCmd m = .allOnes 4) (hstyle : reqStyle m = .allOnes 3) (hdir : reqDir m = .allOnes 1)
    (hrsv : reqRsv m = .allOnes 3) :
    w &&& m = assemble cmd style dir data ↔
      reqCmd w = cmd ∧ reqStyle w = style ∧ reqDir w = dir ∧ reqRsv w = 0#3 ∧ reqData w &&& reqData m = data := by
  rw [and_eq_assemble_iff hcmd hrsv, hstyle, hdir, BitVec.and_allOnes, BitVec.and_allOnes]

/-- The operands whose bits 20 to 8 are 0 are the zero-extended bytes. -/
theorem and_byteMask_eq_zero_iff {d : CodePoint} : d &&& 0x1FFF00#21 = 0#21 ↔ ∃ b : Byte, d = b.zeroExtend 21 := by
  constructor
  · intro h
    refine ⟨_, eq_zeroExtend_of_extract_high ?_⟩
    have hhigh := congrArg (BitVec.extractLsb' 8 13) h
    rw [BitVec.extractLsb'_and] at hhigh
    exact BitVec.and_allOnes.symm.trans hhigh
  · rintro ⟨b, rfl⟩
    have hmask : 0x1FFF00#21 = BitVec.allOnes 13 ++ 0#8 := rfl
    have hbyte : b.zeroExtend 21 = 0#13 ++ b := BitVec.setWidth_eq_append (by decide)
    rw [hmask, hbyte]
    exact BitVec.and_append.trans (by simp)

/-- The match of a row with a byte operand (R43). -/
theorem and_mask_eq_iff_byte {w : Request} {cmd : BitVec 4} {style : BitVec 3} {dir : BitVec 1} :
    w &&& 0xFFFFFF00#32 = assemble cmd style dir 0#21 ↔ ∃ b : Byte, w = assemble cmd style dir (b.zeroExtend 21) := by
  have hbyte : reqData w &&& reqData 0xFFFFFF00#32 = 0#21 ↔ ∃ b : Byte, reqData w = b.zeroExtend 21 :=
    and_byteMask_eq_zero_iff
  simp only [and_eq_assemble_iff_of_full (m := 0xFFFFFF00#32) rfl rfl rfl rfl, hbyte, eq_assemble_iff, exists_and_left]

/-- The match of a row whose operand is any code point (R43). -/
theorem and_mask_eq_iff_codePoint {w : Request} {cmd : BitVec 4} {style : BitVec 3} {dir : BitVec 1} :
    w &&& 0xFFE00000#32 = assemble cmd style dir 0#21 ↔ ∃ c, w = assemble cmd style dir c := by
  have hdata : reqData w &&& reqData 0xFFE00000#32 = 0#21 := BitVec.and_zero
  simp only [and_eq_assemble_iff_of_full (m := 0xFFE00000#32) rfl rfl rfl rfl, hdata, eq_assemble_iff, exists_and_left,
    exists_eq']

/-- The row of `ENC` in a style. -/
def encRow (sty : Style) : TableRow :=
  ⟨(Instr.encOf sty 0#8).mnemonic, assemble 0#4 sty.code 0#1 0#21, 0xFFFFFF00#32⟩

/-- The row of `DEC` in a style. -/
def decRow (sty : Style) : TableRow :=
  ⟨(Instr.decOf sty 0#21).mnemonic, assemble 1#4 sty.code 0#1 0#21, 0xFFE00000#32⟩

/-- The row of `START`. -/
def startRow : TableRow := ⟨"START", assemble 2#4 0#3 0#1 0#21, 0xF0FFFFFF#32⟩

/-- The row of `PUT`. -/
def putRow : TableRow := ⟨"PUT", assemble 3#4 0#3 0#1 0#21, 0xFFE00000#32⟩

/-- The row of `STAT`. -/
def statRow : TableRow := ⟨"STAT", assemble 4#4 0#3 0#1 0#21, 0xFFFFFFFF#32⟩

/-- The six styles (R44). -/
def styles : List Style := [.bcd, .direct, .nlbb, .nlbt, .nrbb, .nrbt]

theorem mem_styles (sty : Style) : sty ∈ styles := by
  cases sty <;> decide

/-- The table has a row of `ENC` and one of `DEC` for each style, and the rows of `START`, `PUT` and `STAT` (R43). -/
theorem mem_requestTable {r : TableRow} :
    r ∈ requestTable ↔
      (∃ sty, r = encRow sty) ∨ (∃ sty, r = decRow sty) ∨ r = startRow ∨ r = putRow ∨ r = statRow := by
  have hrows : requestTable = styles.map encRow ++ (styles.map decRow ++ [startRow, putRow, statRow]) := by decide
  simp [hrows, mem_styles, eq_comm]

/-- No two rows have one mnemonic. -/
theorem row_eq_of_mnemonic_eq :
    ∀ r₁ ∈ requestTable, ∀ r₂ ∈ requestTable, r₁.mnemonic = r₂.mnemonic → r₁ = r₂ := by
  decide

/-- A row other than `START`'s is selected by its match and mask alone. -/
theorem selects_iff_and {r : TableRow} (h : (r.mnemonic != "START") = true) {w : Request} :
    r.selects w = true ↔ w &&& r.mask = r.pattern := by
  simp [TableRow.selects, h]

/-- The row of `ENC` in a style is selected by the words of its instructions. -/
theorem selects_encRow {sty : Style} {w : Request} :
    (encRow sty).selects w = true ↔ ∃ b : Byte, w = assemble 0#4 sty.code 0#1 (b.zeroExtend 21) := by
  have hname : ((encRow sty).mnemonic != "START") = true := by cases sty <;> rfl
  exact (selects_iff_and hname).trans and_mask_eq_iff_byte

/-- The row of `DEC` in a style is selected by the words of its instructions. -/
theorem selects_decRow {sty : Style} {w : Request} :
    (decRow sty).selects w = true ↔ ∃ c, w = assemble 1#4 sty.code 0#1 c := by
  have hname : ((decRow sty).mnemonic != "START") = true := by cases sty <;> rfl
  exact (selects_iff_and hname).trans and_mask_eq_iff_codePoint

/-- The row of `PUT` is selected by its words. -/
theorem selects_putRow {w : Request} : putRow.selects w = true ↔ ∃ u, w = assemble 3#4 0#3 0#1 u :=
  (selects_iff_and rfl).trans and_mask_eq_iff_codePoint

/-- The row of `STAT` is selected by its word. -/
theorem selects_statRow {w : Request} : statRow.selects w = true ↔ w = assemble 4#4 0#3 0#1 0#21 := by
  have hall : w &&& 0xFFFFFFFF#32 = w := BitVec.and_allOnes
  have hmask : w &&& 0xFFFFFFFF#32 = assemble 4#4 0#3 0#1 0#21 ↔ w = assemble 4#4 0#3 0#1 0#21 := by rw [hall]
  exact (selects_iff_and rfl).trans hmask

/-- The row of `START` is selected by the words of its well-formed instructions. -/
theorem selects_startRow {w : Request} :
    startRow.selects w = true ↔ ∃ (dir : Direction) (sty : Style), w = assemble 2#4 sty.code dir.code 0#21 := by
  have hmask : w &&& 0xF0FFFFFF#32 = assemble 2#4 0#3 0#1 0#21 ↔ _ := and_eq_assemble_iff rfl rfl
  have hstyle : reqStyle w &&& reqStyle 0xF0FFFFFF#32 = 0#3 := BitVec.and_zero
  have hdir : reqDir w &&& reqDir 0xF0FFFFFF#32 = 0#1 := BitVec.and_zero
  have hdata : reqData w &&& reqData 0xF0FFFFFF#32 = reqData w := BitVec.and_allOnes
  simp only [hstyle, hdir, hdata, true_and] at hmask
  have hsel : startRow.selects w = true ↔ w &&& 0xF0FFFFFF#32 = assemble 2#4 0#3 0#1 0#21 ∧ reqStyle w ≤ 5#3 := by
    simp [TableRow.selects, startRow]
  rw [hsel, hmask]
  constructor
  · rintro ⟨⟨hcmd, hrsv, hdata⟩, hle⟩
    obtain ⟨sty, hsty⟩ := exists_code_of_le hle
    exact ⟨.ofCode (reqDir w), sty, eq_assemble_iff.mpr ⟨hcmd, hsty, (code_ofCode_direction _).symm, hrsv, hdata⟩⟩
  · rintro ⟨dir, sty, hw⟩
    obtain ⟨hcmd, hsty, -, hrsv, hdata⟩ := eq_assemble_iff.mp hw
    exact ⟨⟨hcmd, hrsv, hdata⟩, hsty ▸ code_le sty⟩

/-! ### The table and the decoder -/

theorem mnemonic_encOf (sty : Style) (b : Byte) : (Instr.encOf sty b).mnemonic = (encRow sty).mnemonic := by
  cases sty <;> rfl

theorem mnemonic_decOf (sty : Style) (c : CodePoint) : (Instr.decOf sty c).mnemonic = (decRow sty).mnemonic := by
  cases sty <;> rfl

/-- A word that selects a row is the word of an instruction of that row. -/
theorem isWordOf_of_selects {r : TableRow} (hr : r ∈ requestTable) {w : Request} (h : r.selects w = true) :
    ∃ i, IsWordOf w i ∧ i.mnemonic = r.mnemonic := by
  obtain ⟨sty, rfl⟩ | ⟨sty, rfl⟩ | rfl | rfl | rfl := mem_requestTable.mp hr
  · obtain ⟨b, rfl⟩ := selects_encRow.mp h
    exact ⟨_, .enc sty b, mnemonic_encOf sty b⟩
  · obtain ⟨c, rfl⟩ := selects_decRow.mp h
    exact ⟨_, .dec sty c, mnemonic_decOf sty c⟩
  · obtain ⟨dir, sty, rfl⟩ := selects_startRow.mp h
    exact ⟨_, .start dir sty, rfl⟩
  · obtain ⟨u, rfl⟩ := selects_putRow.mp h
    exact ⟨_, .put u, rfl⟩
  · obtain rfl := selects_statRow.mp h
    exact ⟨_, .stat, rfl⟩

/-- The word of an instruction selects a row of its mnemonic. -/
theorem exists_row_of_isWordOf {w : Request} {i : Instr} (h : IsWordOf w i) :
    ∃ r ∈ requestTable, r.mnemonic = i.mnemonic ∧ r.selects w = true := by
  cases h with
  | enc sty b =>
    exact ⟨_, mem_requestTable.mpr (.inl ⟨sty, rfl⟩), (mnemonic_encOf sty b).symm, selects_encRow.mpr ⟨b, rfl⟩⟩
  | dec sty c =>
    exact ⟨_, mem_requestTable.mpr (.inr (.inl ⟨sty, rfl⟩)), (mnemonic_decOf sty c).symm, selects_decRow.mpr ⟨c, rfl⟩⟩
  | start dir sty => exact ⟨startRow, mem_requestTable.mpr (by simp), rfl, selects_startRow.mpr ⟨dir, sty, rfl⟩⟩
  | put u => exact ⟨putRow, mem_requestTable.mpr (by simp), rfl, selects_putRow.mpr ⟨u, rfl⟩⟩
  | stat => exact ⟨statRow, mem_requestTable.mpr (by simp), rfl, selects_statRow.mpr rfl⟩

/-- A word selects a row exactly when it decodes to an instruction of that row. -/
theorem selects_iff_decode {r : TableRow} (hr : r ∈ requestTable) {w : Request} :
    r.selects w = true ↔ ∃ i, decode w = .ok i ∧ i.mnemonic = r.mnemonic := by
  constructor
  · intro h
    obtain ⟨i, hi, hname⟩ := isWordOf_of_selects hr h
    exact ⟨i, hi.decode_eq, hname⟩
  · rintro ⟨i, hdec, hname⟩
    obtain ⟨r', hr', hname', hsel⟩ := exists_row_of_isWordOf (isWordOf_of_decode hdec)
    obtain rfl := row_eq_of_mnemonic_eq r' hr' r hr (hname'.trans hname)
    exact hsel

/-- A word selects at most one row. -/
theorem row_eq_of_selects {r₁ r₂ : TableRow} (hr₁ : r₁ ∈ requestTable) (hr₂ : r₂ ∈ requestTable) {w : Request}
    (h₁ : r₁.selects w = true) (h₂ : r₂.selects w = true) : r₁ = r₂ := by
  obtain ⟨i, hdec, hname₁⟩ := (selects_iff_decode hr₁).mp h₁
  obtain ⟨j, hdec', hname₂⟩ := (selects_iff_decode hr₂).mp h₂
  obtain rfl : i = j := Except.ok.inj (hdec.symm.trans hdec')
  exact row_eq_of_mnemonic_eq r₁ hr₁ r₂ hr₂ (hname₁.symm.trans hname₂)

/-! ### The reserved words (R50) -/

/-- The operand of a `PUT` is illegal exactly in an encode call, when it is no byte (R45). -/
theorem putLegal_eq_false {dir : Direction} {u : CodePoint} :
    putLegal dir u = false ↔ dir = .enc ∧ u.extractLsb' 8 13 ≠ 0#13 := by
  cases dir <;> simp [putLegal, byteOperand]

/-- No style has code 6 or 7 (R44). -/
theorem not_six_le_code (sty : Style) : ¬ 6#3 ≤ sty.code := by
  cases sty <;> decide

/-- R50 on a word assembled from its fields: item 2 is gone, the others are about the fields. -/
theorem reserved_assemble {cmd : BitVec 4} {style : BitVec 3} {d : BitVec 1} {data : CodePoint} {dir : Direction} :
    Reserved (assemble cmd style d data) dir ↔
      5#4 ≤ cmd ∨ (cmd ≤ 2#4 ∧ 6#3 ≤ style) ∨ ((cmd = 3#4 ∨ cmd = 4#4) ∧ style ≠ 0#3) ∨
      ((cmd ≤ 1#4 ∨ cmd = 3#4 ∨ cmd = 4#4) ∧ d ≠ 0#1) ∨
      ((cmd = 0#4 ∨ (cmd = 3#4 ∧ dir = .enc)) ∧ data.extractLsb' 8 13 ≠ 0#13) ∨
      ((cmd = 2#4 ∨ cmd = 4#4) ∧ data ≠ 0#21) := by
  simp only [Reserved, reqCmd_assemble, reqStyle_assemble, reqDir_assemble, reqData_assemble, Laws.reqRsv_assemble,
    ne_eq, not_true_eq_false, false_or]

/-- Of the words that decode, R50 reserves only those of a `PUT` with an illegal operand. -/
theorem IsWordOf.reserved_iff {w : Request} {i : Instr} (h : IsWordOf w i) {dir : Direction} :
    Reserved w dir ↔ ∃ u, i = .put u ∧ putLegal dir u = false := by
  cases h with
  | enc sty b =>
    have hput : ∀ u, Instr.encOf sty b ≠ .put u := by cases sty <;> simp [Instr.encOf]
    have hbyte := extract_high_zeroExtend b
    rw [reserved_assemble, hbyte]
    simp [hput, not_six_le_code]
  | dec sty c =>
    have hput : ∀ u, Instr.decOf sty c ≠ .put u := by cases sty <;> simp [Instr.decOf]
    rw [reserved_assemble]
    simp [hput, not_six_le_code]
  | start dir' sty =>
    rw [reserved_assemble]
    simp [not_six_le_code]
  | put u =>
    rw [reserved_assemble]
    simp [putLegal_eq_false]
  | stat =>
    rw [reserved_assemble]
    simp

/-- A word that R50 does not reserve is the word of an instruction. -/
theorem exists_isWordOf_of_not_reserved {w : Request} {dir : Direction} (h : ¬ Reserved w dir) :
    ∃ i, IsWordOf w i := by
  have hrsv : reqRsv w = 0#3 := not_not.mp (not_or.mp (not_or.mp h).2).1
  obtain ⟨cmd, style, d, data, rfl⟩ : ∃ cmd style d data, w = assemble cmd style d data :=
    ⟨_, _, _, _, eq_assemble_of_reqRsv hrsv⟩
  simp only [reserved_assemble, not_or, not_and, not_not] at h
  obtain ⟨hcmd, hcode, hstyle, hdir, hbyte, hdata⟩ := h
  have hcases : ∀ c : BitVec 4, ¬ 5#4 ≤ c → c = 0#4 ∨ c = 1#4 ∨ c = 2#4 ∨ c = 3#4 ∨ c = 4#4 := by decide
  have hsty : cmd ≤ 2#4 → ∃ sty : Style, style = sty.code := fun hle =>
    exists_code_of_le (by have := hcode hle; bv_omega)
  obtain rfl | rfl | rfl | rfl | rfl := hcases cmd hcmd
  · obtain ⟨sty, rfl⟩ := hsty (by decide)
    obtain rfl := hdir (.inl (by decide))
    obtain ⟨b, rfl⟩ : ∃ b : Byte, data = b.zeroExtend 21 := ⟨_, eq_zeroExtend_of_extract_high (hbyte (.inl rfl))⟩
    exact ⟨_, .enc sty b⟩
  · obtain ⟨sty, rfl⟩ := hsty (by decide)
    obtain rfl := hdir (.inl (by decide))
    exact ⟨_, .dec sty data⟩
  · obtain ⟨sty, rfl⟩ := hsty (by decide)
    obtain rfl := hdata (.inl rfl)
    obtain ⟨dir', rfl⟩ : ∃ dir' : Direction, d = dir'.code := ⟨_, (code_ofCode_direction d).symm⟩
    exact ⟨_, .start dir' sty⟩
  · obtain rfl := hstyle (.inl rfl)
    obtain rfl := hdir (.inr (.inl rfl))
    exact ⟨_, .put data⟩
  · obtain rfl := hstyle (.inr rfl)
    obtain rfl := hdir (.inr (.inr rfl))
    obtain rfl := hdata (.inr rfl)
    exact ⟨_, .stat⟩

/-- A word is reserved exactly when the only instruction it may decode to is a `PUT` with an illegal operand (R45, R50). -/
theorem reserved_iff_decode {w : Request} {dir : Direction} :
    Reserved w dir ↔ ∀ i, decode w = .ok i → ∃ u, i = .put u ∧ putLegal dir u = false := by
  constructor
  · intro h i hdec
    exact (isWordOf_of_decode hdec).reserved_iff.mp h
  · intro h
    by_contra hres
    obtain ⟨i, hi⟩ := exists_isWordOf_of_not_reserved hres
    exact hres (hi.reserved_iff.mpr (h i hi.decode_eq))

/-- The operand of a `PUT` is the word's `data` field (R42). -/
theorem reqData_of_decode_put {w : Request} {u : CodePoint} (h : decode w = .ok (.put u)) : reqData w = u := by
  rw [← (isWordOf_of_decode h).encode_eq]
  exact reqData_assemble ..

/-- The mnemonic `PUT` is that of a `PUT`. -/
theorem mnemonic_eq_put {i : Instr} : i.mnemonic = "PUT" ↔ ∃ u, i = .put u := by
  cases i <;> simp [Instr.mnemonic]

/-- Settles O4: the rows are selected by the words that decode to them, an instruction has one row, and what is reserved
decodes to nothing or to a `PUT` with an illegal operand. -/
theorem matchMaskTableDecides : Obligations.MatchMaskTableDecides := by
  intro w
  refine ⟨fun r hr => selects_iff_decode hr, fun r₁ hr₁ r₂ hr₂ => row_eq_of_selects hr₁ hr₂, fun dir => ?_⟩
  rw [reserved_iff_decode]
  constructor
  · intro h r hr hsel
    obtain ⟨i, hdec, hname⟩ := (selects_iff_decode hr).mp hsel
    obtain ⟨u, rfl, hlegal⟩ := h i hdec
    exact ⟨hname.symm, reqData_of_decode_put hdec ▸ hlegal⟩
  · intro h i hdec
    obtain ⟨r, hr, hname, hsel⟩ := exists_row_of_isWordOf (isWordOf_of_decode hdec)
    obtain ⟨hput, hlegal⟩ := h r hr hsel
    obtain ⟨u, rfl⟩ := mnemonic_eq_put.mp (hname.symm.trans hput)
    exact ⟨u, rfl, reqData_of_decode_put hdec ▸ hlegal⟩

end Sys2Proof
end

section
/-!
PROOFS. What a request does when it is presented next (30_encoding R47, R50, R52): which requests have no step, and that
every other gives one response.
-/

namespace Sys2Proof.Machine

/-! ### `PUT`, its tests in the order of R141 -/

/-- A `PUT` with an illegal operand is refused (R45). -/
theorem exec_put_of_illegal {s : State} {u : CodePoint} (h : putLegal s.dir u = false) :
    exec (.put u) s = .refused (.reserved .byteField) := by
  simp [exec, execPut, h]

/-- A legal `PUT` with an error latched reports it again (R104). -/
theorem exec_put_of_latched {s : State} {u : CodePoint} {k : ErrorKind} (h : putLegal s.dir u = true)
    (hfault : s.fault = some k) : exec (.put u) s = .next (s.repeatError k) := by
  simp [exec, execPut, h, hfault]

/-- A legal `PUT` at the last position is refused, with no error latched (R13). -/
theorem exec_put_of_last {s : State} {u : CodePoint} (h : putLegal s.dir u = true) (hfault : s.fault = none)
    (hpos : s.pos = lastPosition) : exec (.put u) s = .refused .positionsExhausted := by
  simp [exec, execPut, h, hfault, hpos]

/-- Any other `PUT` treats its unit (R105, R106, R107). -/
theorem exec_put_of_unit {s : State} {u : CodePoint} (h : putLegal s.dir u = true) (hfault : s.fault = none)
    (hpos : s.pos ≠ lastPosition) : exec (.put u) s = .next (s.putResult (unitOf s.cfg s.dir s.style u)) := by
  simp [exec, execPut, h, hfault, hpos]

/-- The last position is 2^64 - 1 (R13). -/
theorem eq_lastPosition_iff {p : Position} : p = lastPosition ↔ p.toNat = 2 ^ 64 - 1 := by
  rw [← BitVec.toNat_inj, lastPosition, BitVec.toNat_allOnes]

/-- A legal `PUT` gives a next state unless it is at the last position without an error latched. -/
theorem exec_put_next {s : State} {u : CodePoint} (h : putLegal s.dir u = true)
    (hroom : s.fault = none → s.pos ≠ lastPosition) : ∃ t, exec (.put u) s = .next t := by
  cases hfault : s.fault with
  | none => exact ⟨_, exec_put_of_unit h hfault (hroom hfault)⟩
  | some k => exact ⟨_, exec_put_of_latched h hfault⟩

/-! ### Requests without a step, and requests with one -/

/-- `PUT` is the instruction of the words with `cmd` 3. -/
theorem reqCmd_eq_three_iff {w : Request} {i : Instr} (h : IsWordOf w i) : reqCmd w = 3#4 ↔ ∃ u, i = .put u := by
  cases h with
  | enc sty b => cases sty <;> simp [reqCmd_assemble, Instr.encOf]
  | dec sty c => cases sty <;> simp [reqCmd_assemble, Instr.decOf]
  | start | put | stat => simp [reqCmd_assemble]

/-- The word of an instruction that is no `PUT` gives a next state in every state. -/
theorem exec_next_of_not_put {w : Request} {i : Instr} (h : IsWordOf w i) (hput : ∀ u, i ≠ .put u) (s : State) :
    ∃ t, exec i s = .next t := by
  cases h with
  | enc sty b => exact ⟨_, exec_encOf sty b s⟩
  | dec sty c => exact ⟨_, exec_decOf sty c s⟩
  | start dir sty => exact ⟨_, exec_start_of_ofCode (ofCode_code sty) dir s⟩
  | put u => exact absurd rfl (hput u)
  | stat =>
    obtain ⟨st, p, hstat⟩ := execStat_responds s
    exact ⟨_, hstat⟩

/-- A reserved request is refused (R52). -/
theorem handleRequest_of_reserved {s : State} {w : Request} (h : Reserved w s.dir) :
    ∃ r, s.handleRequest w = .refused r := by
  unfold State.handleRequest
  cases hdec : decode w with
  | error why => exact ⟨_, rfl⟩
  | ok i =>
    obtain ⟨u, rfl, hlegal⟩ := reserved_iff_decode.mp h i hdec
    exact ⟨_, exec_put_of_illegal hlegal⟩

/-- A request that is not reserved decodes to an instruction, with a legal operand if it is a `PUT`. -/
theorem decode_of_not_reserved {w : Request} {dir : Direction} (h : ¬ Reserved w dir) :
    ∃ i, decode w = .ok i ∧ ∀ u, i = .put u → putLegal dir u = true := by
  obtain ⟨i, hi⟩ := exists_isWordOf_of_not_reserved h
  refine ⟨i, hi.decode_eq, fun u hu => ?_⟩
  by_contra hlegal
  exact h (hi.reserved_iff.mpr ⟨u, hu, eq_false_of_ne_true hlegal⟩)

/-- A `PUT` at the last position, not reserved, is refused (R13, R52). -/
theorem handleRequest_of_atLastPosition {s : State} {w : Request} (h : ¬ Reserved w s.dir) (hlast : AtLastPosition w s) :
    s.handleRequest w = .refused .positionsExhausted := by
  obtain ⟨hcmd, hfault, hpos⟩ := hlast
  obtain ⟨i, hdec, hlegal⟩ := decode_of_not_reserved h
  obtain ⟨u, rfl⟩ := (reqCmd_eq_three_iff (isWordOf_of_decode hdec)).mp hcmd
  rw [handleRequest_of_decode hdec]
  exact exec_put_of_last (hlegal u rfl) hfault (eq_lastPosition_iff.mpr hpos)

/-- Every other request is handled to a next state. -/
theorem handleRequest_next {s : State} {w : Request} (h : ¬ Reserved w s.dir) (hlast : ¬ AtLastPosition w s) :
    ∃ t, s.handleRequest w = .next t := by
  obtain ⟨i, hdec, hlegal⟩ := decode_of_not_reserved h
  have hword := isWordOf_of_decode hdec
  rw [handleRequest_of_decode hdec]
  by_cases hput : ∃ u, i = .put u
  · obtain ⟨u, rfl⟩ := hput
    refine exec_put_next (hlegal u rfl) fun hfault hpos => hlast ⟨(reqCmd_eq_three_iff hword).mpr ⟨u, rfl⟩, hfault, ?_⟩
    exact eq_lastPosition_iff.mp hpos
  · exact exec_next_of_not_put hword (not_exists.mp hput) s

/-- Settles O10: taking the request from the pending ones leaves what `Reserved` and `AtLastPosition` read. -/
theorem stepRefusesExactlyReserved : Obligations.StepRefusesExactlyReserved := by
  intro s w rest hin
  rw [step_of_cons hin]
  refine ⟨fun h => ?_, fun hres hlast => handleRequest_next (s := s.withInputs rest) hres hlast⟩
  by_cases hres : Reserved w s.dir
  · exact handleRequest_of_reserved (s := s.withInputs rest) hres
  · exact ⟨_, handleRequest_of_atLastPosition (s := s.withInputs rest) hres (h.resolve_left hres)⟩

/-! ### One response per request (R47) -/

/-- A step that takes a request and gives a next state adds one response. -/
theorem responses_of_request_step {s t : State} {w : Request} {rest : List HostEvent}
    (hin : s.inputs = .request w :: rest) (h : step s = .next t) : ∃ r, t.responses = s.responses ++ [r] := by
  cases step_effect h with
  | idle hin' => cases hin.symm.trans hin'
  | reset rest' hin' => cases hin.symm.trans hin'
  | start | answer | accept | latch => exact ⟨_, rfl⟩

/-- The packed response holds its three fields side by side (R47). -/
theorem extract_pack (r : Response) :
    r.pack.extractLsb' 80 2 = r.status.code ∧ r.pack.extractLsb' 64 16 = r.data ∧ r.pack.extractLsb' 0 64 = r.pos :=
  ⟨BitVec.extractLsb'_append_eq_of_le (by decide) |>.trans BitVec.extractLsb'_append_eq_left,
   BitVec.extractLsb'_append_eq_of_le (by decide) |>.trans BitVec.extractLsb'_append_eq_right,
   BitVec.extractLsb'_append_eq_right⟩

/-- Settles O11: a legal request has a step, which adds its response. -/
theorem oneResponsePerRequest : Obligations.OneResponsePerRequest := by
  refine ⟨fun s w rest hin hres hlast => ?_, extract_pack⟩
  obtain ⟨t, ht⟩ := (stepRefusesExactlyReserved s w rest hin).2 hres hlast
  obtain ⟨r, hr⟩ := responses_of_request_step hin ht
  exact ⟨t, r, ht, hr⟩

end Sys2Proof.Machine
end

section
/-!
PROOFS. Calls (44_stream R110, R111): what one request of a call does to the call's result, the run of a whole call, and the
pseudo-instructions of 30_encoding R54, whose expansions are calls.
-/

namespace Sys2Proof.Machine

/-! ### The result of the rest of a call -/

/-- The result of the call a state is in, over the units still to come: the latched error, or what the units give from the
present position on (R111). -/
def State.restResult (s : State) (us : List CodePoint) : CallResult OutUnit :=
  match s.fault with
  | none => callResult (unitOf s.cfg s.dir s.style) us s.pos.toNat
  | some k => .error (k, s.epos.toNat)

/-- With no error latched, the result is that of the units to come. -/
theorem restResult_of_none {s : State} (h : s.fault = none) (us : List CodePoint) :
    s.restResult us = callResult (unitOf s.cfg s.dir s.style) us s.pos.toNat := by
  simp [State.restResult, h]

/-- With an error latched, the result is that error, whatever comes. -/
theorem restResult_of_latched {s : State} {k : ErrorKind} (h : s.fault = some k) (us : List CodePoint) :
    s.restResult us = .error (k, s.epos.toNat) := by
  simp [State.restResult, h]

/-- With no unit to come, the result is what the host reads from the registers. -/
theorem restResult_nil (s : State) : s.restResult [] = s.observedResult [] := by
  cases h : s.fault <;> simp [State.restResult, State.observedResult, callResult, h]

/-- A response read before the others puts its output unit, if it has one, in front. -/
theorem observedResult_append (s : State) (r p : List Response) :
    s.observedResult (r ++ p) = (s.observedResult p).map (r.filterMap Response.outUnit? ++ ·) := by
  cases h : s.fault <;> simp [State.observedResult, Except.map, h]

/-- The response to an instruction, where it belongs to the result of the call: the instruction is a `PUT` (R110). -/
def putResponse (i : Instr) (r : Response) : List Response :=
  if i.putUnit?.isSome then [r] else []

theorem putResponses_cons (i : Instr) (is : List Instr) (r : Response) (rs : List Response) :
    putResponses (i :: is) (r :: rs) = putResponse i r ++ putResponses is rs := by
  unfold putResponse
  rw [putResponses]
  split <;> rfl

theorem filterMap_putUnit_cons (i : Instr) (is : List Instr) :
    (i :: is).filterMap Instr.putUnit? = i.putUnit?.toList ++ is.filterMap Instr.putUnit? := by
  cases h : i.putUnit? <;> simp [h]

/-! ### One request of a call -/

/-- An instruction of a call that is legal in direction `dir`: well formed, no `START`, and with a legal operand if it is a
`PUT` (R110). -/
def LegalInCall (dir : Direction) (i : Instr) : Prop :=
  i.wf = true ∧ i.isStart = false ∧ ∀ u, i = .put u → putLegal dir u = true

/-- What one instruction of a call makes of a state: one more response; the context, the parameters and the pending events
stay; without an error latched, `POS` counts the units; and the result of the call is what the response delivers, then the
result of the rest. -/
structure CallStep (i : Instr) (s t : State) (r : Response) : Prop where
  inputs : t.inputs = s.inputs
  responses : t.responses = s.responses ++ [r]
  dir : t.dir = s.dir
  pos : t.fault = none → s.fault = none ∧ t.pos.toNat = s.pos.toNat + i.putUnit?.toList.length
  result : ∀ us, s.restResult (i.putUnit?.toList ++ us) =
    (t.restResult us).map ((putResponse i r).filterMap Response.outUnit? ++ ·)

/-- Mapping a list result by nothing in front changes nothing. -/
theorem map_nil_append {α : Type} (c : CallResult α) : c.map (([] : List α) ++ ·) = c := by
  cases c <;> rfl

/-- A request that only answers and is no `PUT` leaves the call as it is (R110). -/
theorem callStep_respond {i : Instr} (h : i.putUnit? = none) (s : State) (st : Status) (d : OutUnit) (p : Position) :
    CallStep i s (s.respond st d p) { status := st, data := d, pos := p } where
  inputs := rfl
  responses := rfl
  dir := rfl
  pos hfault := ⟨hfault, by simp [h]⟩
  result us := by
    simp only [h, putResponse, Option.isSome_none, Bool.false_eq_true, if_false, List.filterMap_nil, map_nil_append]
    rfl

/-- A `PUT` with an error latched leaves that error the result (R104). -/
theorem callStep_repeatError {s : State} {k : ErrorKind} (h : s.fault = some k) (u : CodePoint) :
    CallStep (.put u) s (s.repeatError k) { status := k.status, data := 0#16, pos := s.epos } where
  inputs := rfl
  responses := rfl
  dir := rfl
  pos hfault := by cases h.symm.trans hfault
  result us := by
    rw [restResult_of_latched h, restResult_of_latched (s := s.repeatError k) h]
    rfl

/-- After an accepted unit, the rest of the call goes on at the next position. -/
theorem restResult_acceptUnit {s : State} (h : s.fault = none) (hpos : s.pos ≠ lastPosition) (st : Status) (d : OutUnit)
    (us : List CodePoint) :
    (s.acceptUnit st d).restResult us = callResult (unitOf s.cfg s.dir s.style) us (s.pos.toNat + 1) := by
  rw [← toNat_add_one_of_ne_lastPosition hpos]
  exact restResult_of_none (s := s.acceptUnit st d) h us

/-- A `PUT` with no error latched delivers the result of its unit (R105, R106, R107). -/
theorem callStep_putResult {s : State} (h : s.fault = none) (hpos : s.pos ≠ lastPosition) (u : CodePoint) :
    ∃ r, CallStep (.put u) s (s.putResult (unitOf s.cfg s.dir s.style u)) r := by
  have hnext := toNat_add_one_of_ne_lastPosition hpos
  have hrest := restResult_acceptUnit h hpos
  cases hunit : unitOf s.cfg s.dir s.style u with
  | ok d =>
    refine ⟨_, rfl, rfl, rfl, fun _ => ⟨h, hnext⟩, fun us => ?_⟩
    rw [restResult_of_none h, State.putResult, hrest]
    simp only [Instr.putUnit?, Option.toList_some, List.singleton_append, callResult, hunit]
    rfl
  | skip =>
    refine ⟨_, rfl, rfl, rfl, fun _ => ⟨h, hnext⟩, fun us => ?_⟩
    rw [restResult_of_none h, State.putResult, hrest]
    simp only [Instr.putUnit?, Option.toList_some, List.singleton_append, callResult, hunit]
    exact (map_nil_append _).symm
  | err k =>
    refine ⟨_, rfl, rfl, rfl, (fun hfault => by cases hfault), fun us => ?_⟩
    rw [restResult_of_none h]
    simp only [Instr.putUnit?, Option.toList_some, List.singleton_append, callResult, hunit]
    rfl

/-- Every legal instruction of a call is such a step, where a unit still has a position. -/
theorem exec_callStep {i : Instr} {s : State} (h : LegalInCall s.dir i)
    (hroom : s.fault = none → s.pos.toNat + i.putUnit?.toList.length < 2 ^ 64) :
    ∃ t r, exec i s = .next t ∧ CallStep i s t r := by
  obtain ⟨hwf, hstart, hlegal⟩ := h
  by_cases hput : ∃ u, i = .put u
  · obtain ⟨u, rfl⟩ := hput
    cases hfault : s.fault with
    | some k => exact ⟨_, _, exec_put_of_latched (hlegal u rfl) hfault, callStep_repeatError hfault u⟩
    | none =>
      have hpos : s.pos ≠ lastPosition := by
        have hlt : s.pos.toNat + 1 < 2 ^ 64 := hroom hfault
        rw [ne_eq, eq_lastPosition_iff]
        omega
      obtain ⟨r, hr⟩ := callStep_putResult hfault hpos u
      exact ⟨_, r, exec_put_of_unit (hlegal u rfl) hfault hpos, hr⟩
  · have hunit : i.putUnit? = none := by
      cases i with
      | put u => exact absurd ⟨u, rfl⟩ hput
      | _ => rfl
    obtain ⟨t, ht⟩ := exec_next_of_not_put (isWordOf_encode hwf) (not_exists.mp hput) s
    obtain ⟨-, st, d, rfl⟩ | ⟨dir, code, sty, rfl, -⟩ | ⟨u, rfl, -⟩ | ⟨rfl, st, p, rfl⟩ := exec_next ht
    · exact ⟨_, _, ht, callStep_respond hunit s st d _⟩
    · cases hstart
    · cases hunit
    · exact ⟨_, _, ht, callStep_respond hunit s st _ p⟩

/-! ### The run of a call -/

/-- The events of a sequence of instructions: their words, requested in order (R42). -/
def requests (is : List Instr) : List HostEvent := is.map fun i => .request (encode i)

/-- A run of one step more begins with that step. -/
theorem run_succ {M : Host.Core} {s t : M.State} (h : M.step s = .next t) (n : Nat) : M.run (n + 1) s = M.run n t := by
  simp only [Host.Core.run, h]

/-- The legal instructions of a call, with no `START`, run one step each; the host then reads the result of the call the
state was in, over their units (R110, R111). -/
theorem run_callBody {is : List Instr} {s : State} {rest : List HostEvent} (hlegal : ∀ i ∈ is, LegalInCall s.dir i)
    (hroom : s.fault = none → s.pos.toNat + (is.filterMap Instr.putUnit?).length < 2 ^ 64)
    (hin : s.inputs = requests is ++ rest) :
    ∃ (t : State) (rs : List Response), Host.Core.run core is.length s = .next t ∧ t.inputs = rest ∧ rs.length = is.length ∧
      t.responses = s.responses ++ rs ∧
      t.observedResult (putResponses is rs) = s.restResult (is.filterMap Instr.putUnit?) := by
  induction is generalizing s with
  | nil => exact ⟨s, [], rfl, hin, rfl, (List.append_nil _).symm, (restResult_nil s).symm⟩
  | cons i is ih =>
    rw [filterMap_putUnit_cons] at hroom ⊢
    rw [List.length_append] at hroom
    have hi := hlegal i List.mem_cons_self
    obtain ⟨s', r, hexec, hstep⟩ := exec_callStep (s := s.withInputs (requests is ++ rest)) hi
      fun hfault => by have := hroom hfault; simp only [withInputs_pos]; omega
    have hrun : step s = .next s' := (step_of_request hin (isWordOf_encode hi.1).decode_eq).trans hexec
    obtain ⟨t, rs, ht, hrest, hlen, hresp, hres⟩ := ih (s := s')
      (fun j hj => hstep.dir ▸ hlegal j (List.mem_cons_of_mem i hj))
      (fun hfault => by
        obtain ⟨hnone, hpos⟩ := hstep.pos hfault
        have := hroom hnone
        rw [hpos, withInputs_pos]
        omega)
      hstep.inputs
    refine ⟨t, r :: rs, (run_succ (M := core) hrun _).trans ht, hrest, congrArg (· + 1) hlen, ?_, ?_⟩
    · rw [hresp, hstep.responses, withInputs_responses, List.append_assoc, List.singleton_append]
    · rw [putResponses_cons, observedResult_append, hres]
      exact (hstep.result _).symm

/-- A call that begins with `START` runs to the result of its units (R110, R111). -/
theorem run_call {s : State} {dir : Direction} {sty : Style} {is : List Instr} {rest : List HostEvent}
    (hlegal : ∀ i ∈ is, LegalInCall dir i) (hroom : (is.filterMap Instr.putUnit?).length < 2 ^ 64)
    (hin : s.inputs = requests (.start dir sty.code :: is) ++ rest) :
    ∃ (t : State) (rs : List Response), Host.Core.run core (is.length + 1) s = .next t ∧ t.inputs = rest ∧
      rs.length = is.length ∧
      t.responses = s.responses ++ { status := .okNoData, data := 0#16, pos := 0#64 } :: rs ∧
      t.observedResult (putResponses is rs) =
        callResult (unitOf s.cfg dir sty) (is.filterMap Instr.putUnit?) 0 := by
  have hstart := (step_of_request hin (IsWordOf.start dir sty).decode_eq).trans
    (exec_start_of_ofCode (ofCode_code sty) dir _)
  obtain ⟨t, rs, ht, hrest, hlen, hresp, hres⟩ := run_callBody
    (s := ((s.withInputs (requests is ++ rest)).startCall dir sty).respond .okNoData 0#16 0#64)
    hlegal (fun _ => by simpa using hroom) rfl
  refine ⟨t, rs, (run_succ (M := core) hstart _).trans ht, hrest, hlen, ?_, hres⟩
  simpa using hresp

end Sys2Proof.Machine
end

section
/-!
PROOFS. The pseudo-instructions `ENCODE` and `DECODE` (30_encoding R54): their expansions are calls of `PUT`s alone, whose
result is the one of the host's `encode` and `decode` (45_host_format R120, R124).
-/

namespace Sys2Proof.Machine

/-! ### Calls of `PUT`s alone -/

/-- The units of a sequence of `PUT`s are its operands. -/
theorem filterMap_putUnit_map_put (us : List CodePoint) : (us.map Instr.put).filterMap Instr.putUnit? = us := by
  rw [List.filterMap_map]
  exact List.filterMap_some

/-- Every response to a sequence of `PUT`s belongs to the result. -/
theorem putResponses_map_put : ∀ {us : List CodePoint} {rs : List Response}, rs.length = us.length →
    putResponses (us.map Instr.put) rs = rs
  | [], [], _ => rfl
  | _ :: _, r :: _, h => congrArg (r :: ·) (putResponses_map_put (Nat.succ.inj h))

/-- A `START` and `PUT`s of legal units run to the result of the units (R110, R111). -/
theorem run_start_puts {s : State} {dir : Direction} {sty : Style} {us : List CodePoint} {rest : List HostEvent}
    (hlegal : ∀ u ∈ us, putLegal dir u = true) (hlen : us.length < 2 ^ 64)
    (hin : s.inputs = requests (.start dir sty.code :: us.map .put) ++ rest) :
    ∃ (t : State) (rs : List Response), Host.Core.run core (us.length + 1) s = .next t ∧ t.inputs = rest ∧
      rs.length = us.length ∧
      t.responses = s.responses ++ { status := .okNoData, data := 0#16, pos := 0#64 } :: rs ∧
      t.observedResult rs = callResult (unitOf s.cfg dir sty) us 0 := by
  have hputs : ∀ i ∈ us.map Instr.put, LegalInCall dir i := by
    intro i hi
    obtain ⟨u, hu, rfl⟩ := List.mem_map.mp hi
    exact ⟨rfl, rfl, fun v hv => Instr.put.inj hv ▸ hlegal u hu⟩
  obtain ⟨t, rs, hrun, hrest, hrs, hresp, hres⟩ :=
    run_call hputs (by rwa [filterMap_putUnit_map_put]) hin
  rw [List.length_map] at hrun hrs
  rw [filterMap_putUnit_map_put, putResponses_map_put hrs] at hres
  exact ⟨t, rs, hrun, hrest, hrs, hresp, hres⟩

/-! ### The units' results, on the host's side -/

/-- The result over units that are the images of others. -/
theorem callResult_map {α β γ : Type} (f : β → UnitResult γ) (g : α → β) (us : List α) (j : Nat) :
    callResult f (us.map g) j = callResult (fun a => f (g a)) us j := by
  induction us generalizing j with
  | nil => rfl
  | cons u us ih => simp only [List.map_cons, callResult, ih]

@[simp] theorem zext16_ok (b : Byte) : (UnitResult.ok b).zext16 = .ok (b.zeroExtend 16) := rfl
@[simp] theorem zext16_skip : UnitResult.skip.zext16 = .skip := rfl
@[simp] theorem zext16_err (k : ErrorKind) : (UnitResult.err k).zext16 = .err k := rfl

/-- Zero-extending the units' results zero-extends the result of the call. -/
theorem callResult_zext16 {α : Type} (f : α → UnitResult Byte) (us : List α) (j : Nat) :
    callResult (fun a => (f a).zext16) us j = (callResult f us j).map (·.map (·.zeroExtend 16)) := by
  induction us generalizing j with
  | nil => rfl
  | cons u us ih =>
    cases hu : f u with
    | err k => simp only [callResult, hu, zext16_err, Except.map]
    | skip => simp only [callResult, hu, zext16_skip, ih]
    | ok b =>
      simp only [callResult, hu, zext16_ok, ih]
      cases callResult f us (j + 1) <;> rfl

/-- In an encode call, the unit of a zero-extended byte is that byte (R45). -/
theorem unitOf_enc_zeroExtend (g : Config) (sty : Style) (b : Byte) :
    unitOf g .enc sty (b.zeroExtend 21) = encUnit g sty b := by
  rw [unitOf, extract_low_zeroExtend]

/-- A zero-extended byte is a legal operand in an encode call (R45). -/
theorem putLegal_zeroExtend (b : Byte) : putLegal .enc (b.zeroExtend 21) = true := by
  simp [putLegal, byteOperand_eq_some.mpr rfl]

/-- The host's `encode` without wrapping is the result of the encode call, as code points (R120, R121). -/
theorem hostEncode_no_wrap (g : Config) (bs : List Byte) (sty : Style) :
    hostEncode g bs sty 0 0 = (callResult (encUnit g sty) bs 0).map (·.map (·.zeroExtend 21)) := rfl

/-- Settles O52: both expansions are calls of `PUT`s alone, run to the result of their units. -/
theorem pseudoInstructionsRunToTheirResult : Obligations.PseudoInstructionsRunToTheirResult := by
  refine ⟨fun s st bs rest hlen hin => ?_, fun s st cs rest hlen hin => ?_⟩
  · have hexpand : s.inputs =
        requests (.start .enc (st.getD .nlbb).code :: (bs.map (·.zeroExtend 21)).map .put) ++ rest := by
      rw [List.map_map]
      exact hin
    have hlegal : ∀ u ∈ bs.map (·.zeroExtend 21), putLegal .enc u = true := by
      intro u hu
      obtain ⟨b, -, rfl⟩ := List.mem_map.mp hu
      exact putLegal_zeroExtend b
    obtain ⟨t, rs, hrun, hrest, hrs, hresp, hres⟩ := run_start_puts hlegal (by rwa [List.length_map]) hexpand
    rw [List.length_map] at hrun hrs
    rw [callResult_map] at hres
    simp only [unitOf_enc_zeroExtend] at hres
    exact ⟨t, rs, hrun, hrest, hrs, hresp, hres, hres ▸ hostEncode_no_wrap s.cfg bs _⟩
  · obtain ⟨t, rs, hrun, hrest, hrs, hresp, hres⟩ := run_start_puts (dir := .dec) (fun _ _ => rfl) hlen hin
    exact ⟨t, rs, hrun, hrest, hrs, hresp, hres, hres ▸ (callResult_zext16 (decUnit s.cfg _) cs 0).symm⟩

end Sys2Proof.Machine
end

section
/-!
PROOFS. Cells and code points (40_dot_grid R65): the value of `CellToCp`, and the one equation that says which code points
`CpToCell` is defined on and what it is there.
-/

namespace Sys2Proof.Machine

/-! ### `CellToCp` and `CpToCell` (R65) -/

/-- The model's test for the block is membership in it (R1, R139). -/
theorem isBraille_iff {c : CodePoint} : isBraille c = true ↔ Braille c := by
  simp [isBraille, Braille, BitVec.le_def]

/-- The 16-bit addition of `CellToCp` does not wrap. -/
theorem toNat_cellToCp (o : Byte) : (cellToCp o).toNat = 0x2800 + o.toNat := by
  rw [cellToCp, BitVec.toNat_add, BitVec.toNat_setWidth_of_le (by decide), BitVec.toNat_ofNat]
  omega

/-- 0x2800 is a multiple of 256 and an offset is below 256, so the sum of `CellToCp` is a disjunction. -/
theorem cellToCp_eq_or (o : Byte) : cellToCp o = 0x2800#16 ||| o.zeroExtend 16 := by
  apply BitVec.eq_of_toNat_eq
  rw [toNat_cellToCp, BitVec.toNat_or, BitVec.toNat_setWidth_of_le (by decide)]
  exact Nat.two_pow_add_eq_or_of_lt o.isLt 0x28

/-- The code point of a cell, widened to a decode input, is the same number. -/
theorem toNat_cellToCp_zeroExtend (o : Byte) : ((cellToCp o).zeroExtend 21).toNat = 0x2800 + o.toNat := by
  rw [BitVec.toNat_setWidth_of_le (by decide), toNat_cellToCp]

/-- On the block, the difference of `CpToCell` does not wrap and fits in a byte. -/
theorem toNat_truncate_sub_of_braille {c : CodePoint} (hc : Braille c) :
    ((c - 0x2800#21).truncate 8).toNat = c.toNat - 0x2800 := by
  obtain ⟨hlo, hhi⟩ := hc
  have hle : 0x2800#21 ≤ c := hlo
  rw [BitVec.truncate_eq_setWidth, BitVec.toNat_setWidth, BitVec.toNat_sub_of_le hle, BitVec.toNat_ofNat]
  omega

/-- `CpToCell` is defined on the block alone, and is the difference there. -/
theorem cpToCell_eq_some_iff {c : CodePoint} {o : Byte} :
    cpToCell c = some o ↔ Braille c ∧ o.toNat = c.toNat - 0x2800 := by
  unfold cpToCell
  by_cases hc : Braille c
  · rw [if_pos (isBraille_iff.mpr hc), Option.some_inj, ← BitVec.toNat_inj, toNat_truncate_sub_of_braille hc,
      and_iff_right hc, eq_comm]
  · rw [if_neg (mt isBraille_iff.mp hc)]
    simp only [reduceCtorEq, hc, false_and]

/-- `CpToCell` undoes `CellToCp`. -/
theorem cpToCell_cellToCp (o : Byte) : cpToCell ((cellToCp o).zeroExtend 21) = some o := by
  have := o.isLt
  rw [cpToCell_eq_some_iff, Braille, toNat_cellToCp_zeroExtend]
  omega

/-- The block begins at a multiple of 256, so on it the difference of `CpToCell` is the low byte. -/
theorem cpToCell_of_braille {c : CodePoint} (hc : Braille c) : cpToCell c = some (c.extractLsb' 0 8) := by
  have hlow : (c.extractLsb' 0 8).toNat = c.toNat % 256 := by simp
  refine cpToCell_eq_some_iff.mpr ⟨hc, ?_⟩
  obtain ⟨hlo, hhi⟩ := hc
  omega

/-- Settles O25: both spellings of `CellToCp` and of `CpToCell`, and the one as the inverse of the other. -/
theorem cellCodePointInverse : Obligations.CellCodePointInverse :=
  ⟨fun o => ⟨toNat_cellToCp o, cellToCp_eq_or o, cpToCell_cellToCp o⟩,
    fun _ _ => cpToCell_eq_some_iff, fun _ => cpToCell_of_braille⟩

end Sys2Proof.Machine
end

section
/-!
PROOFS. The nibble columns (42_nibble_column R75 to R79), bit by bit: what `Place` puts at each position of the grid, what
`Extract` reads there, and so `NibEnc` and `NibDec` as inverses of each other.
-/

namespace Sys2Proof.Machine

/-! ### The positions of the grid (R62, R75) -/

/-- Two columns and nibble bits have one offset bit only when they are the same. -/
theorem offsetBitFor_rowOf_inj {col col' : Column} {msb : MsbRow} {k k' : Fin 4} :
    offsetBitFor col (rowOf k msb) = offsetBitFor col' (rowOf k' msb) ↔ col = col' ∧ k = k' := by
  cases col <;> cases col' <;> cases msb <;> revert k k' <;> decide

/-- Every offset bit is that of a nibble bit in `col` or in the other column. -/
theorem exists_offsetBitFor_rowOf (i : Fin 8) (col : Column) (msb : MsbRow) :
    ∃ k, i = offsetBitFor col (rowOf k msb) ∨ i = offsetBitFor (otherColumn col) (rowOf k msb) := by
  cases col <;> cases msb <;> revert i <;> decide

theorem otherColumn_ne (col : Column) : otherColumn col ≠ col := by
  cases col <;> decide

/-- Two offsets are equal when they agree on the four bits of each column. -/
theorem offset_ext {x y : Byte} (col : Column) (msb : MsbRow)
    (hcol : ∀ k, x.getLsbD (offsetBitFor col (rowOf k msb)).val = y.getLsbD (offsetBitFor col (rowOf k msb)).val)
    (hother : ∀ k, x.getLsbD (offsetBitFor (otherColumn col) (rowOf k msb)).val =
      y.getLsbD (offsetBitFor (otherColumn col) (rowOf k msb)).val) : x = y := by
  refine BitVec.eq_of_getLsbD_eq fun i hi => ?_
  obtain ⟨k, hk | hk⟩ := exists_offsetBitFor_rowOf ⟨i, hi⟩ col msb
  · have hbit := hcol k
    rwa [← hk] at hbit
  · have hbit := hother k
    rwa [← hk] at hbit

/-- Two nibbles are equal when their four bits are. -/
theorem nibble_ext {m n : Nibble} (h : ∀ k : Fin 4, m.getLsbD k.val = n.getLsbD k.val) : m = n :=
  BitVec.eq_of_getLsbD_eq fun i hi => h ⟨i, hi⟩

/-! ### `Place` and `Extract` by bits (R76, R77) -/

/-- One bit of a vector, moved to position `m` of a wider one, stands there alone. -/
theorem getLsbD_bit_shiftLeft {w v : Nat} (x : BitVec w) (k : Nat) {m i : Nat} (hi : i < v) :
    ((x.extractLsb' k 1).zeroExtend v <<< m).getLsbD i = (decide (m = i) && x.getLsbD k) := by
  rw [BitVec.getLsbD_shiftLeft, BitVec.zeroExtend, BitVec.getLsbD_setWidth, BitVec.getLsbD_extractLsb']
  obtain hlt | rfl | hgt := lt_trichotomy m i
  · have hout : ¬ i - m < 1 := by omega
    simp [hlt.ne, hout]
  · have hv : 0 < v := by omega
    simp [hi, hv]
  · simp [hgt, hgt.ne']

/-- One term of `Place` has the nibble's bit at one position, and 0 elsewhere. -/
theorem getLsbD_placeBit (n : Nibble) (col : Column) (msb : MsbRow) (k : Fin 4) (i : Fin 8) :
    (placeBit n col msb k).getLsbD i.val = (decide (offsetBitFor col (rowOf k msb) = i) && n.getLsbD k.val) := by
  simp only [placeBit, getLsbD_bit_shiftLeft _ _ i.isLt, Fin.ext_iff]

/-- `Place` puts bit `k` of the nibble at the position of bit `k` in the column, and leaves the other column empty. -/
theorem getLsbD_place (n : Nibble) (col col' : Column) (msb : MsbRow) (k : Fin 4) :
    (place n col msb).getLsbD (offsetBitFor col' (rowOf k msb)).val = (decide (col = col') && n.getLsbD k.val) := by
  simp only [place, BitVec.getLsbD_or, getLsbD_placeBit, offsetBitFor_rowOf_inj]
  fin_cases k <;> simp

/-- One term of `Extract` has the offset's bit of one position, and 0 elsewhere. -/
theorem getLsbD_extractBit (o : Byte) (col : Column) (msb : MsbRow) (k j : Fin 4) :
    (extractBit o col msb k).getLsbD j.val =
      (decide (k = j) && o.getLsbD (offsetBitFor col (rowOf k msb)).val) := by
  simp only [extractBit, getLsbD_bit_shiftLeft _ _ j.isLt, Fin.ext_iff]

/-- Bit `k` of `Extract` is the offset's bit at the position of bit `k` in the column. -/
theorem getLsbD_extract (o : Byte) (col : Column) (msb : MsbRow) (k : Fin 4) :
    (extract o col msb).getLsbD k.val = o.getLsbD (offsetBitFor col (rowOf k msb)).val := by
  simp only [extract, BitVec.getLsbD_or, getLsbD_extractBit]
  fin_cases k <;> simp

/-! ### `NibEnc` and `NibDec` (R78, R79) -/

/-- The column of the most significant nibble holds it. -/
theorem extract_nibEnc_msn (b : Byte) (col : Column) (msb : MsbRow) : extract (nibEnc b col msb) col msb = msn b := by
  refine nibble_ext fun k => ?_
  rw [getLsbD_extract, nibEnc, BitVec.getLsbD_or, getLsbD_place, getLsbD_place]
  simp [otherColumn_ne]

/-- The other column holds the least significant nibble. -/
theorem extract_nibEnc_lsn (b : Byte) (col : Column) (msb : MsbRow) :
    extract (nibEnc b col msb) (otherColumn col) msb = lsn b := by
  refine nibble_ext fun k => ?_
  rw [getLsbD_extract, nibEnc, BitVec.getLsbD_or, getLsbD_place, getLsbD_place]
  simp [(otherColumn_ne col).symm]

/-- The nibbles of two columns, placed there again, are the offset. -/
theorem place_extract_or (o : Byte) (col : Column) (msb : MsbRow) :
    place (extract o col msb) col msb ||| place (extract o (otherColumn col) msb) (otherColumn col) msb = o := by
  refine offset_ext col msb (fun k => ?_) fun k => ?_ <;>
    rw [BitVec.getLsbD_or, getLsbD_place, getLsbD_place, getLsbD_extract, getLsbD_extract]
  · simp [otherColumn_ne]
  · simp [(otherColumn_ne col).symm]

/-- `NibDec` is the two nibbles side by side. -/
theorem nibDec_eq_append (o : Byte) (col : Column) (msb : MsbRow) :
    nibDec o col msb = extract o col msb ++ extract o (otherColumn col) msb := by
  rw [BitVec.append_def, BitVec.shiftLeftZeroExtend_eq, nibDec, BitVec.setWidth'_eq]

/-- A byte is its two nibbles side by side (R31). -/
theorem msn_append_lsn (b : Byte) : (msn b ++ lsn b : BitVec 8) = b :=
  (BitVec.extractLsb'_append_extractLsb'_eq_extractLsb' (show 4 = 0 + 4 from rfl)).trans BitVec.extractLsb'_eq_self

theorem msn_append (m n : Nibble) : msn (m ++ n) = m := BitVec.extractLsb'_append_eq_left

theorem lsn_append (m n : Nibble) : lsn (m ++ n) = n := BitVec.extractLsb'_append_eq_right

/-- `NibDec` undoes `NibEnc` on every byte. -/
theorem nibDec_nibEnc (b : Byte) (col : Column) (msb : MsbRow) : nibDec (nibEnc b col msb) col msb = b := by
  rw [nibDec_eq_append, extract_nibEnc_msn, extract_nibEnc_lsn, msn_append_lsn]

/-- `NibEnc` undoes `NibDec` on every offset. -/
theorem nibEnc_nibDec (o : Byte) (col : Column) (msb : MsbRow) : nibEnc (nibDec o col msb) col msb = o := by
  rw [nibEnc, nibDec_eq_append, msn_append, lsn_append, place_extract_or]

/-- The bijection of a nibble-column style, from bytes to offsets (R88). -/
def nibEquiv (col : Column) (msb : MsbRow) : Byte ≃ Byte where
  toFun b := nibEnc b col msb
  invFun o := nibDec o col msb
  left_inv b := nibDec_nibEnc b col msb
  right_inv o := nibEnc_nibDec o col msb

/-- Byte 0x48 has another offset under each of the four pairs of a column and a row (R88). -/
theorem nibEnc_0x48_inj {col col' : Column} {msb msb' : MsbRow} (h : nibEnc 0x48#8 col msb = nibEnc 0x48#8 col' msb') :
    col = col' ∧ msb = msb' := by
  revert h
  cases col <;> cases col' <;> cases msb <;> cases msb' <;> decide

end Sys2Proof.Machine
end

section
/-!
PROOFS. The one-shot commands of any style (R41, R43, R101, R102): which words they have and what they answer, from the
results of their units; then the obligations about style `direct` and about the five styles that are bijections (41_direct).
-/

namespace Sys2Proof.Machine

/-! ### Operands and encodings (R43) -/

/-- A word that matches `ENC` of a style is that command of its low byte. -/
theorem decode_of_enc_mask {w : Request} (sty : Style) (h : w &&& 0xFFFFFF00#32 = assemble 0#4 sty.code 0#1 0#21) :
    decode w = .ok (.encOf sty (w.extractLsb' 0 8)) := by
  obtain ⟨b, rfl⟩ := and_mask_eq_iff_byte.mp h
  have hlow (v : Request) : v.extractLsb' 0 8 = (reqData v).extractLsb' 0 8 :=
    (BitVec.extractLsb'_extractLsb'_of_le (by decide)).symm
  rw [hlow, reqData_assemble, extract_low_zeroExtend]
  exact (IsWordOf.enc sty b).decode_eq

/-- A word that matches `DEC` of a style is that command of its `data` field. -/
theorem decode_of_dec_mask {w : Request} (sty : Style) (h : w &&& 0xFFE00000#32 = assemble 1#4 sty.code 0#1 0#21) :
    decode w = .ok (.decOf sty (w.extractLsb' 0 21)) := by
  obtain ⟨c, rfl⟩ := and_mask_eq_iff_codePoint.mp h
  have hdata : (assemble 1#4 sty.code 0#1 c).extractLsb' 0 21 = c := reqData_assemble ..
  rw [hdata]
  exact (IsWordOf.dec sty c).decode_eq

/-! ### Answers -/

/-- `ENC` answers the character of its byte. -/
theorem answers_encOf {s : State} {sty : Style} {b : Byte} {cp : OutUnit} (h : encUnit s.cfg sty b = .ok cp) :
    Answers (.encOf sty b) s .okData cp 0#64 := by
  rw [Answers, exec_encOf, h]
  rfl

/-- `DEC` answers with the response to its unit. -/
theorem answers_decOf_of_unit {s : State} {sty : Style} {c : CodePoint} {r : UnitResult Byte} {st : Status} {d : OutUnit}
    (h : decUnit s.cfg sty c = r) (hr : s.answerDec r = s.respond st d 0#64) : Answers (.decOf sty c) s st d 0#64 := by
  rw [Answers, exec_decOf, h, hr]
  rfl

/-- The unit of a Braille character is decided by its cell (R102). -/
theorem decUnit_of_cell {c : CodePoint} {o : Byte} (h : cpToCell c = some o) (g : Config) (sty : Style) :
    decUnit g sty c = decCell g sty o := by
  simp only [decUnit, decodeChar, classify, h]

/-- `DEC` answers the byte of a Braille character. -/
theorem answers_decOf {s : State} {sty : Style} {c : CodePoint} {o b : Byte} (hc : cpToCell c = some o)
    (h : decCell s.cfg sty o = .ok b) : Answers (.decOf sty c) s .okData (b.zeroExtend 16) 0#64 :=
  answers_decOf_of_unit ((decUnit_of_cell hc s.cfg sty).trans h) rfl

/-- A code point without a cell is outside the block. -/
theorem not_braille_of_cpToCell {c : CodePoint} (h : cpToCell c = none) : ¬ Braille c := fun hc =>
  Option.some_ne_none _ ((cpToCell_of_braille hc).symm.trans h)

/-- `DEC` of any style has the three outcomes of `AnswersDecode`; what it answers for a cell is the style's own. -/
theorem answersDecode_decOf {sty : Style} {c : CodePoint} {s : State} {cell : Byte → Prop}
    (hcell : ∀ o, cpToCell c = some o → cell o) : AnswersDecode (.decOf sty c) c s cell := by
  unfold AnswersDecode
  obtain ⟨o, ho, -⟩ | ⟨hnone, hsep, hunit⟩ | ⟨hnone, hsep, hunit⟩ := decodeChar_eq s.cfg (decCell s.cfg sty) c
  · obtain ⟨hc, hoff⟩ := cpToCell_eq_some_iff.mp ho
    rw [if_pos hc]
    exact ⟨o, by omega, hcell o ho⟩
  · rw [if_neg (not_braille_of_cpToCell hnone), if_pos hsep]
    exact answers_decOf_of_unit hunit rfl
  · rw [if_neg (not_braille_of_cpToCell hnone), if_neg hsep]
    exact answers_decOf_of_unit hunit rfl

/-! ### Style `direct` -/

/-- Settles O12: the word is that of `ENC.direct`, whose unit is the character at the byte's offset. -/
theorem encDirectAnswers : Obligations.EncDirectAnswers :=
  ⟨fun _ hw => decode_of_enc_mask .direct hw,
    fun b _ => ⟨cellToCp b, toNat_cellToCp b, answers_encOf (sty := .direct) rfl⟩⟩

/-- Settles O13: the word is that of `DEC.direct`, which decodes a cell to its offset. -/
theorem decDirectAnswers : Obligations.DecDirectAnswers :=
  ⟨fun _ hw => decode_of_dec_mask .direct hw,
    fun _ _ => answersDecode_decOf (sty := .direct) fun _ ho => answers_decOf (sty := .direct) ho rfl⟩

/-! ### The styles other than `bcd` -/

/-- A style other than `bcd` relates bytes and offsets by one bijection: `ENC` by it, `DEC` by its inverse (R72, R88). -/
theorem exists_equiv_of_ne_bcd {sty : Style} (h : sty ≠ .bcd) (g : Config) :
    ∃ e : Byte ≃ Byte, (∀ b, encUnit g sty b = .ok (cellToCp (e b))) ∧ ∀ o, decCell g sty o = .ok (e.symm o) := by
  cases sty with
  | bcd => exact absurd rfl h
  | direct => exact ⟨.refl Byte, fun _ => rfl, fun _ => rfl⟩
  | nlbb => exact ⟨nibEquiv .left .bottom, fun _ => rfl, fun _ => rfl⟩
  | nlbt => exact ⟨nibEquiv .left .top, fun _ => rfl, fun _ => rfl⟩
  | nrbb => exact ⟨nibEquiv .right .bottom, fun _ => rfl, fun _ => rfl⟩
  | nrbt => exact ⟨nibEquiv .right .top, fun _ => rfl, fun _ => rfl⟩

/-- `CellToCp` takes the cell of a code point back to it. -/
theorem cellToCp_of_cpToCell {c : CodePoint} {o : Byte} (h : cpToCell c = some o) : cellToCp o = c.truncate 16 := by
  obtain ⟨⟨hlo, hhi⟩, ho⟩ := cpToCell_eq_some_iff.mp h
  apply BitVec.eq_of_toNat_eq
  rw [toNat_cellToCp, BitVec.truncate_eq_setWidth, BitVec.toNat_setWidth]
  omega

/-- The commands of a style other than `bcd` take every byte to its character and back. -/
theorem answers_dec_enc {sty : Style} (h : sty ≠ .bcd) (s : State) (b : Byte) :
    ∃ cp : OutUnit, Answers (.encOf sty b) s .okData cp 0#64 ∧
      Answers (.decOf sty (cp.zeroExtend 21)) s .okData (b.zeroExtend 16) 0#64 := by
  obtain ⟨e, henc, hdec⟩ := exists_equiv_of_ne_bcd h s.cfg
  have hback : decCell s.cfg sty (e b) = .ok b := by rw [hdec, e.symm_apply_apply]
  exact ⟨_, answers_encOf (henc b), answers_decOf (cpToCell_cellToCp _) hback⟩

/-- The commands of a style other than `bcd` take every Braille character to its byte and back. -/
theorem answers_enc_dec {sty : Style} (h : sty ≠ .bcd) (s : State) {c : CodePoint} (hc : Braille c) :
    ∃ b : Byte, Answers (.decOf sty c) s .okData (b.zeroExtend 16) 0#64 ∧
      Answers (.encOf sty b) s .okData (c.truncate 16) 0#64 := by
  obtain ⟨e, henc, hdec⟩ := exists_equiv_of_ne_bcd h s.cfg
  have ho := cpToCell_of_braille hc
  have hback := henc (e.symm (c.extractLsb' 0 8))
  rw [e.apply_symm_apply, cellToCp_of_cpToCell ho] at hback
  exact ⟨_, answers_decOf ho (hdec _), answers_encOf hback⟩

/-- Different cells have different code points. -/
theorem cellToCp_inj {o o' : Byte} (h : cellToCp o = cellToCp o') : o = o' := by
  have hnat := congrArg BitVec.toNat h
  rw [toNat_cellToCp, toNat_cellToCp] at hnat
  exact BitVec.eq_of_toNat_eq (Nat.add_left_cancel hnat)

/-- The nibble-column styles are the styles other than `bcd` and `direct` (R100). -/
theorem exists_nibble_of_ne {sty : Style} (hbcd : sty ≠ .bcd) (hdirect : sty ≠ .direct) (g : Config) :
    ∃ col msb, styleParams g sty = .nibble col msb := by
  cases sty with
  | bcd => exact absurd rfl hbcd
  | direct => exact absurd rfl hdirect
  | nlbb | nlbt | nrbb | nrbt => exact ⟨_, _, rfl⟩

/-- A style's parameters determine it (R100). -/
theorem styleParams_inj {g : Config} {st₁ st₂ : Style} (h : styleParams g st₁ = styleParams g st₂) : st₁ = st₂ := by
  cases st₁ <;> cases st₂ <;> simp_all [styleParams]

/-- The unit of `ENC` in a nibble-column style (R101). -/
theorem encUnit_of_nibble {g : Config} {sty : Style} {col : Column} {msb : MsbRow}
    (h : styleParams g sty = .nibble col msb) (b : Byte) : encUnit g sty b = .ok (cellToCp (nibEnc b col msb)) := by
  simp only [encUnit, h]

/-- Two nibble-column styles with the same character at byte 0x48 are the same (R88). -/
theorem nibbleStyle_eq_of_encUnit_0x48 {g : Config} {st₁ st₂ : Style} (hbcd₁ : st₁ ≠ .bcd) (hdirect₁ : st₁ ≠ .direct)
    (hbcd₂ : st₂ ≠ .bcd) (hdirect₂ : st₂ ≠ .direct) (h : encUnit g st₁ 0x48#8 = encUnit g st₂ 0x48#8) : st₁ = st₂ := by
  obtain ⟨col₁, msb₁, h₁⟩ := exists_nibble_of_ne hbcd₁ hdirect₁ g
  obtain ⟨col₂, msb₂, h₂⟩ := exists_nibble_of_ne hbcd₂ hdirect₂ g
  rw [encUnit_of_nibble h₁, encUnit_of_nibble h₂] at h
  obtain ⟨rfl, rfl⟩ := nibEnc_0x48_inj (cellToCp_inj (UnitResult.ok.inj h))
  exact styleParams_inj (h₁.trans h₂.symm)

/-- Settles O28: each direction of the bijection on the commands, and the four styles told apart at byte 0x48. -/
theorem fullStylesAreBijections : Obligations.FullStylesAreBijections :=
  ⟨fun s _ hst => ⟨answers_dec_enc hst s, fun _ hc => answers_enc_dec hst s hc⟩,
    fun _ _ _ hbcd₁ hdirect₁ hbcd₂ hdirect₂ h => nibbleStyle_eq_of_encUnit_0x48 hbcd₁ hdirect₁ hbcd₂ hdirect₂ h⟩

end Sys2Proof.Machine
end

section
/-!
PROOFS. The obligations about the nibble columns (42_nibble_column): `Place` and `Extract` dot by dot, `NibDec` as the inverse
of `NibEnc`, and the commands of the four styles bit by bit. One table, `nibOffsetBit`, has the bit lists of R80 to R87.
-/

namespace Sys2Proof.Machine

/-! ### The masks of the columns (R64) -/

/-- A column's mask has the positions of the column, and no other. -/
theorem getLsbD_columnMask (col col' : Column) (msb : MsbRow) (k : Fin 4) :
    (columnMask col).getLsbD (offsetBitFor col' (rowOf k msb)).val = decide (col = col') := by
  cases col <;> cases col' <;> cases msb <;> revert k <;> decide

/-- `Place` stays within the column's mask. -/
theorem place_and_columnMask (n : Nibble) (col : Column) (msb : MsbRow) :
    place n col msb &&& columnMask col = place n col msb := by
  refine offset_ext col msb (fun k => ?_) fun k => ?_ <;>
    rw [BitVec.getLsbD_and, getLsbD_place, getLsbD_columnMask]
  · simp
  · simp [(otherColumn_ne col).symm]

/-- An offset with no bit in a column's mask is 0 at the positions of the column. -/
theorem getLsbD_of_and_columnMask {x : Byte} {col : Column} (h : x &&& columnMask col = 0#8) (msb : MsbRow) (k : Fin 4) :
    x.getLsbD (offsetBitFor col (rowOf k msb)).val = false := by
  have hbit := congrArg (BitVec.getLsbD · (offsetBitFor col (rowOf k msb)).val) h
  simpa only [BitVec.getLsbD_and, getLsbD_columnMask, decide_true, Bool.and_true, BitVec.getLsbD_zero] using hbit

/-- `Extract` undoes `Place`, whatever the other column holds (R77). -/
theorem extract_place_or {x : Byte} {col : Column} (h : x &&& columnMask col = 0#8) (n : Nibble) (msb : MsbRow) :
    extract (place n col msb ||| x) col msb = n := by
  refine nibble_ext fun k => ?_
  rw [getLsbD_extract, BitVec.getLsbD_or, getLsbD_place, getLsbD_of_and_columnMask h]
  simp

/-- Settles O26: `Place` and `Extract` bit by bit, within the mask of the column. -/
theorem placeAndExtractByDots : Obligations.PlaceAndExtractByDots :=
  ⟨fun n col msb k => by simp only [getLsbD_place, decide_true, Bool.true_and], place_and_columnMask, getLsbD_extract,
    fun n _ _ msb hx => extract_place_or hx n msb⟩

/-! ### `NibDec` as a number (R79) -/

/-- The nibbles of `NibDec` do not overlap, and none of their bits is lost. -/
theorem toNat_nibDec (o : Byte) (col : Column) (msb : MsbRow) :
    (nibDec o col msb).toNat = 16 * (extract o col msb).toNat + (extract o (otherColumn col) msb).toNat := by
  rw [nibDec_eq_append, BitVec.toNat_append, ← Nat.shiftLeft_add_eq_or_of_lt (BitVec.isLt _), Nat.shiftLeft_eq, mul_comm]

/-- Settles O27: `NibDec` as a number, and the inverse of `NibEnc` on both sides. -/
theorem nibbleDecodeInvertsEncode : Obligations.NibbleDecodeInvertsEncode :=
  ⟨toNat_nibDec, nibDec_nibEnc, nibEnc_nibDec⟩

/-! ### The bit lists of the styles (R80 to R87) -/

/-- The offset bit that holds bit `i` of the byte: the low nibble stands in the other column, the high one in `col`. -/
def nibOffsetBit (col : Column) (msb : MsbRow) (i : Fin 8) : Fin 8 :=
  Fin.addCases (m := 4) (n := 4) (fun k => offsetBitFor (otherColumn col) (rowOf k msb))
    (fun k => offsetBitFor col (rowOf k msb)) i

/-- What holds of each bit, in the order of the rules: from bit 7 down to bit 0. -/
abbrev EachBit (P : Fin 8 → Prop) : Prop := P 7 ∧ P 6 ∧ P 5 ∧ P 4 ∧ P 3 ∧ P 2 ∧ P 1 ∧ P 0

theorem eachBit_of_forall {P : Fin 8 → Prop} (h : ∀ i, P i) : EachBit P :=
  ⟨h 7, h 6, h 5, h 4, h 3, h 2, h 1, h 0⟩

/-- `NibDec` reads each bit of the byte at its offset bit. -/
theorem getLsbD_nibDec (o : Byte) (col : Column) (msb : MsbRow) (i : Fin 8) :
    (nibDec o col msb).getLsbD i.val = o.getLsbD (nibOffsetBit col msb i).val := by
  rw [nibDec_eq_append, BitVec.getLsbD_append]
  cases i using Fin.addCases (m := 4) (n := 4) with
  | left k => rw [nibOffsetBit, Fin.addCases_left, ← getLsbD_extract]; simp
  | right k => rw [nibOffsetBit, Fin.addCases_right, ← getLsbD_extract]; simp

/-- `NibEnc` puts each bit of the byte at its offset bit, where `NibDec` reads it. -/
theorem getLsbD_nibEnc (b : Byte) (col : Column) (msb : MsbRow) (i : Fin 8) :
    (nibEnc b col msb).getLsbD (nibOffsetBit col msb i).val = b.getLsbD i.val := by
  rw [← getLsbD_nibDec, nibDec_nibEnc]

/-! ### The commands of the styles -/

/-- The cell of a nibble-column style is decoded by `NibDec` (R102). -/
theorem decCell_of_nibble {g : Config} {sty : Style} {col : Column} {msb : MsbRow}
    (h : styleParams g sty = .nibble col msb) (o : Byte) : decCell g sty o = .ok (nibDec o col msb) := by
  simp only [decCell, h]

section
variable {sty : Style} {col : Column} {msb : MsbRow} (h : ∀ g, styleParams g sty = .nibble col msb)
include h

/-- `ENC` of a nibble-column style answers the character whose offset has each bit of the byte at its place. -/
theorem answers_encOf_nibble (b : Byte) (s : State) :
    ∃ (cp : OutUnit) (o : Byte), cp.toNat = 0x2800 + o.toNat ∧ Answers (.encOf sty b) s .okData cp 0#64 ∧
      EachBit fun i => o.getLsbD (nibOffsetBit col msb i).val = b.getLsbD i.val :=
  ⟨cellToCp (nibEnc b col msb), nibEnc b col msb, toNat_cellToCp _, answers_encOf (encUnit_of_nibble (h s.cfg) b),
    eachBit_of_forall (getLsbD_nibEnc b col msb)⟩

/-- `DEC` of a nibble-column style answers, for a Braille character, the byte with each bit from its place in the offset. -/
theorem answersDecode_decOf_nibble (c : CodePoint) (s : State) :
    AnswersDecode (.decOf sty c) c s fun o =>
      ∃ b : Byte, Answers (.decOf sty c) s .okData (b.zeroExtend 16) 0#64 ∧
        EachBit fun i => b.getLsbD i.val = o.getLsbD (nibOffsetBit col msb i).val :=
  answersDecode_decOf fun o ho =>
    ⟨nibDec o col msb, answers_decOf ho (decCell_of_nibble (h s.cfg) o), eachBit_of_forall (getLsbD_nibDec o col msb)⟩

end

/-- Settles O14: the bit list of R80 is `nibOffsetBit` of the left column and the bottom row. -/
theorem encNlbbAnswers : Obligations.EncNlbbAnswers :=
  ⟨fun _ hw => decode_of_enc_mask .nlbb hw,
    answers_encOf_nibble (sty := .nlbb) (col := .left) (msb := .bottom) fun _ => rfl⟩

/-- Settles O15: the bit list of R82 is `nibOffsetBit` of the left column and the top row. -/
theorem encNlbtAnswers : Obligations.EncNlbtAnswers :=
  ⟨fun _ hw => decode_of_enc_mask .nlbt hw,
    answers_encOf_nibble (sty := .nlbt) (col := .left) (msb := .top) fun _ => rfl⟩

/-- Settles O16: the bit list of R84 is `nibOffsetBit` of the right column and the bottom row. -/
theorem encNrbbAnswers : Obligations.EncNrbbAnswers :=
  ⟨fun _ hw => decode_of_enc_mask .nrbb hw,
    answers_encOf_nibble (sty := .nrbb) (col := .right) (msb := .bottom) fun _ => rfl⟩

/-- Settles O17: the bit list of R86 is `nibOffsetBit` of the right column and the top row. -/
theorem encNrbtAnswers : Obligations.EncNrbtAnswers :=
  ⟨fun _ hw => decode_of_enc_mask .nrbt hw,
    answers_encOf_nibble (sty := .nrbt) (col := .right) (msb := .top) fun _ => rfl⟩

/-- Settles O18: the bit list of R81 is `nibOffsetBit` of the left column and the bottom row. -/
theorem decNlbbAnswers : Obligations.DecNlbbAnswers :=
  ⟨fun _ hw => decode_of_dec_mask .nlbb hw,
    answersDecode_decOf_nibble (sty := .nlbb) (col := .left) (msb := .bottom) fun _ => rfl⟩

/-- Settles O19: the bit list of R83 is `nibOffsetBit` of the left column and the top row. -/
theorem decNlbtAnswers : Obligations.DecNlbtAnswers :=
  ⟨fun _ hw => decode_of_dec_mask .nlbt hw,
    answersDecode_decOf_nibble (sty := .nlbt) (col := .left) (msb := .top) fun _ => rfl⟩

/-- Settles O20: the bit list of R85 is `nibOffsetBit` of the right column and the bottom row. -/
theorem decNrbbAnswers : Obligations.DecNrbbAnswers :=
  ⟨fun _ hw => decode_of_dec_mask .nrbb hw,
    answersDecode_decOf_nibble (sty := .nrbb) (col := .right) (msb := .bottom) fun _ => rfl⟩

/-- Settles O21: the bit list of R87 is `nibOffsetBit` of the right column and the top row. -/
theorem decNrbtAnswers : Obligations.DecNrbtAnswers :=
  ⟨fun _ hw => decode_of_dec_mask .nrbt hw,
    answersDecode_decOf_nibble (sty := .nrbt) (col := .right) (msb := .top) fun _ => rfl⟩

end Sys2Proof.Machine
end

section
/-!
PROOFS. Style `bcd` (43_bcd): the nibbles of a packed value are its decimal digits, so that `bcd` is the nibble-column style of
its parameters on the packed value (R91); from this the bijection of R94, and the answers of the two commands.
-/

namespace Sys2Proof.Machine

/-! ### The packed value (R91) -/

theorem toNat_msn (b : Byte) : (msn b).toNat = b.toNat / 16 := by
  rw [msn, BitVec.extractLsb'_toNat, Nat.shiftRight_eq_div_pow]
  omega

theorem toNat_lsn (b : Byte) : (lsn b).toNat = b.toNat % 16 := by
  simp [lsn]

theorem toNat_div_ten (v : Byte) : (v / 10#8).toNat = v.toNat / 10 := BitVec.toNat_udiv

theorem toNat_mod_ten (v : Byte) : (v % 10#8).toNat = v.toNat % 10 := BitVec.toNat_umod

section
variable {v : Byte} (h : v.toNat ≤ 99)
include h

/-- The digits of a value up to 99 do not overlap in `Pack`, and no bit of them is lost. -/
theorem toNat_bcdPack : (bcdPack v).toNat = 16 * (v.toNat / 10) + v.toNat % 10 := by
  have hunits : v.toNat % 10 < 2 ^ 4 := by omega
  have htens : (v.toNat / 10) <<< 4 < 2 ^ 8 := by rw [Nat.shiftLeft_eq]; omega
  rw [bcdPack, BitVec.toNat_or, BitVec.toNat_shiftLeft, toNat_div_ten, toNat_mod_ten, Nat.mod_eq_of_lt htens,
    ← Nat.shiftLeft_add_eq_or_of_lt hunits, Nat.shiftLeft_eq, mul_comm]

/-- The upper nibble of the packed value is the tens digit. -/
theorem toNat_msn_bcdPack : (msn (bcdPack v)).toNat = v.toNat / 10 := by
  rw [toNat_msn, toNat_bcdPack h]
  omega

/-- The lower nibble of the packed value is the units digit. -/
theorem toNat_lsn_bcdPack : (lsn (bcdPack v)).toNat = v.toNat % 10 := by
  rw [toNat_lsn, toNat_bcdPack h]
  omega

/-- The tens digit as `ENC.bcd` computes it is the upper nibble of the packed value. -/
theorem truncate_div_eq_msn_bcdPack : (v / 10#8).truncate 4 = msn (bcdPack v) := by
  apply BitVec.eq_of_toNat_eq
  rw [toNat_msn_bcdPack h, BitVec.truncate_eq_setWidth, BitVec.toNat_setWidth, toNat_div_ten]
  omega

/-- The units digit as `ENC.bcd` computes it is the lower nibble of the packed value. -/
theorem truncate_mod_eq_lsn_bcdPack : (v % 10#8).truncate 4 = lsn (bcdPack v) := by
  apply BitVec.eq_of_toNat_eq
  rw [toNat_lsn_bcdPack h, BitVec.truncate_eq_setWidth, BitVec.toNat_setWidth, toNat_mod_ten]
  omega

/-- `bcd` encodes a value up to 99 as the nibble-column style of its parameters encodes the packed value (R91, R92). -/
theorem bcdEncode_of_le (g : Config) :
    bcdEncode g v = .ok (cellToCp (nibEnc (bcdPack v) g.bcdTCol g.bcdMsbRow)) := by
  have hdom : bcdDomain v = true := decide_eq_true (BitVec.lt_def.mpr (Nat.lt_succ_of_le h))
  rw [bcdEncode, if_pos hdom, truncate_div_eq_msn_bcdPack h, truncate_mod_eq_lsn_bcdPack h, nibEnc]

end

/-- `bcd` encodes no byte of 100 or more (R92). -/
theorem bcdEncode_of_ge {b : Byte} (h : 100 ≤ b.toNat) (g : Config) : bcdEncode g b = .err .domainError := by
  have hdom : bcdDomain b = false := decide_eq_false (mt BitVec.lt_def.mp (Nat.not_lt.mpr h))
  rw [bcdEncode, hdom, if_neg Bool.false_ne_true]

/-- A byte whose nibbles are decimal digits is the packed form of their value. -/
theorem bcdPack_eq_of_digits {v p : Byte} (ht : (msn p).toNat ≤ 9) (hu : (lsn p).toNat ≤ 9)
    (hv : v.toNat = 10 * (msn p).toNat + (lsn p).toNat) : bcdPack v = p := by
  rw [toNat_msn] at ht hv
  rw [toNat_lsn] at hu hv
  apply BitVec.eq_of_toNat_eq
  rw [toNat_bcdPack (by omega)]
  omega

/-! ### The cells of `bcd` (R93, R94) -/

theorem msn_nibDec (o : Byte) (col : Column) (msb : MsbRow) : msn (nibDec o col msb) = extract o col msb := by
  rw [nibDec_eq_append, msn_append]

theorem lsn_nibDec (o : Byte) (col : Column) (msb : MsbRow) :
    lsn (nibDec o col msb) = extract o (otherColumn col) msb := by
  rw [nibDec_eq_append, lsn_append]

/-- One of the two columns of the cell holds no decimal digit. -/
abbrev HasNonDigit (g : Config) (o : Byte) : Prop :=
  9 < (extract o g.bcdTCol g.bcdMsbRow).toNat ∨ 9 < (extract o (otherColumn g.bcdTCol) g.bcdMsbRow).toNat

/-- A cell with a digit above 9 has no value (R93). -/
theorem bcdDecodeCell_of_nonDigit {g : Config} {o : Byte} (h : HasNonDigit g o) :
    bcdDecodeCell g o = .err .domainError :=
  if_pos h

/-- A cell of two digits has the value they write, which fits in a byte (R93). -/
theorem bcdDecodeCell_of_digits {g : Config} {o : Byte} (h : ¬ HasNonDigit g o) :
    ∃ b : Byte, bcdDecodeCell g o = .ok b ∧
      b.toNat = 10 * (extract o g.bcdTCol g.bcdMsbRow).toNat + (extract o (otherColumn g.bcdTCol) g.bcdMsbRow).toNat := by
  refine ⟨_, if_neg h, ?_⟩
  rw [BitVec.toNat_add, BitVec.toNat_mul, BitVec.toNat_setWidth_of_le (by decide), BitVec.toNat_setWidth_of_le (by decide),
    BitVec.toNat_ofNat]
  omega

/-- The cells `bcd` decodes are those it encodes the values up to 99 to, each with that value: the bijection of R94. -/
theorem bcdDecodeCell_eq_ok_iff {g : Config} {o b : Byte} :
    bcdDecodeCell g o = .ok b ↔ b.toNat ≤ 99 ∧ nibEnc (bcdPack b) g.bcdTCol g.bcdMsbRow = o := by
  constructor
  · intro hdec
    have hdigits : ¬ HasNonDigit g o := fun h => by cases (bcdDecodeCell_of_nonDigit h).symm.trans hdec
    obtain ⟨b', hdec', hval⟩ := bcdDecodeCell_of_digits hdigits
    obtain rfl : b' = b := UnitResult.ok.inj (hdec'.symm.trans hdec)
    rw [HasNonDigit, ← msn_nibDec, ← lsn_nibDec] at hdigits
    rw [← msn_nibDec, ← lsn_nibDec] at hval
    refine ⟨by omega, ?_⟩
    rw [bcdPack_eq_of_digits (by omega) (by omega) hval, nibEnc_nibDec]
  · rintro ⟨hb, rfl⟩
    have htens := toNat_msn_bcdPack hb
    have hunits := toNat_lsn_bcdPack hb
    obtain ⟨b', hdec, hval⟩ := bcdDecodeCell_of_digits (g := g) (o := nibEnc (bcdPack b) g.bcdTCol g.bcdMsbRow)
      (by rw [HasNonDigit, extract_nibEnc_msn, extract_nibEnc_lsn]; omega)
    rw [extract_nibEnc_msn, extract_nibEnc_lsn] at hval
    obtain rfl : b' = b := BitVec.eq_of_toNat_eq (by omega)
    exact hdec

/-- The offset of a number's cell under a setting: that of its packed byte. -/
def bcdOffset (g : Config) (v : Nat) : Nat :=
  (nibEnc (bcdPack (BitVec.ofNat 8 v)) g.bcdTCol g.bcdMsbRow).toNat

/-- The cell of a number up to 99 is decoded to it. -/
theorem bcdDecodeCell_bcdOffset {v : Nat} (h : v < 100) (g : Config) :
    bcdDecodeCell g (BitVec.ofNat 8 (bcdOffset g v)) = .ok (BitVec.ofNat 8 v) := by
  rw [bcdOffset, BitVec.ofNat_toNat, BitVec.setWidth_eq, bcdDecodeCell_eq_ok_iff, BitVec.toNat_ofNat]
  exact ⟨by omega, rfl⟩

/-- Two numbers up to 99 have two cells. -/
theorem bcdOffset_inj {v w : Nat} (hv : v < 100) (hw : w < 100) {g : Config} (h : bcdOffset g v = bcdOffset g w) :
    v = w := by
  have hdec := bcdDecodeCell_bcdOffset hv g
  rw [h, bcdDecodeCell_bcdOffset hw] at hdec
  have hnat := congrArg BitVec.toNat (UnitResult.ok.inj hdec)
  rw [BitVec.toNat_ofNat, BitVec.toNat_ofNat] at hnat
  omega

/-- Every cell that is not rejected is that of a number up to 99. -/
theorem exists_bcdOffset_eq {g : Config} {o : Nat} (ho : o < 256)
    (h : bcdDecodeCell g (BitVec.ofNat 8 o) ≠ .err .domainError) : ∃ v < 100, bcdOffset g v = o := by
  obtain ⟨b, hdec, -⟩ := bcdDecodeCell_of_digits (mt bcdDecodeCell_of_nonDigit h)
  obtain ⟨hle, hcell⟩ := bcdDecodeCell_eq_ok_iff.mp hdec
  refine ⟨b.toNat, Nat.lt_succ_of_le hle, ?_⟩
  rw [bcdOffset, BitVec.ofNat_toNat, BitVec.setWidth_eq, hcell, BitVec.toNat_ofNat]
  exact Nat.mod_eq_of_lt ho

/-- By the bijection, `bcd` decodes as many cells as there are values from 0 to 99 (R93). -/
theorem length_filter_bcdDecodeCell_ne_err (g : Config) :
    ((List.range 256).filter fun o => bcdDecodeCell g (BitVec.ofNat 8 o) ≠ .err .domainError).length = 100 := by
  have hcard : (Finset.range 100).card =
      ((Finset.range 256).filter fun o => bcdDecodeCell g (BitVec.ofNat 8 o) ≠ .err .domainError).card := by
    refine Finset.card_bij (fun v _ => bcdOffset g v) (fun v hv => ?_) (fun v hv w hw => ?_) fun o ho => ?_
    · rw [Finset.mem_filter, Finset.mem_range, bcdDecodeCell_bcdOffset (Finset.mem_range.mp hv)]
      exact ⟨BitVec.isLt _, nofun⟩
    · exact bcdOffset_inj (Finset.mem_range.mp hv) (Finset.mem_range.mp hw)
    · obtain ⟨hlt, hne⟩ := Finset.mem_filter.mp ho
      obtain ⟨v, hv, hoff⟩ := exists_bcdOffset_eq (Finset.mem_range.mp hlt) hne
      exact ⟨v, Finset.mem_range.mpr hv, hoff⟩
  exact hcard.symm.trans (Finset.card_range 100)

/-- The other cells of the 256 are rejected (R94). -/
theorem length_filter_bcdDecodeCell_eq_err (g : Config) :
    ((List.range 256).filter fun o => bcdDecodeCell g (BitVec.ofNat 8 o) = .err .domainError).length = 156 := by
  have hsplit := List.length_eq_length_filter_add (l := List.range 256)
    fun o => decide (bcdDecodeCell g (BitVec.ofNat 8 o) = .err .domainError)
  have hvalues := length_filter_bcdDecodeCell_ne_err g
  simp only [ne_eq, decide_not] at hvalues
  rw [List.length_range, hvalues] at hsplit
  omega

/-! ### The commands -/

/-- `ENC` answers the error of its byte. -/
theorem answers_encOf_of_err {s : State} {sty : Style} {b : Byte} {k : ErrorKind} (h : encUnit s.cfg sty b = .err k) :
    Answers (.encOf sty b) s k.status 0#16 0#64 := by
  rw [Answers, exec_encOf, h]
  rfl

/-- `DEC` answers the error of a Braille character's cell. -/
theorem answers_decOf_of_err {s : State} {sty : Style} {c : CodePoint} {o : Byte} {k : ErrorKind}
    (hc : cpToCell c = some o) (h : decCell s.cfg sty o = .err k) : Answers (.decOf sty c) s k.status 0#16 0#64 :=
  answers_decOf_of_unit ((decUnit_of_cell hc s.cfg sty).trans h) rfl

/-- An instruction gives one answer in a state. -/
theorem answers_unique {i : Instr} {s : State} {st st' : Status} {d d' : OutUnit} {p p' : Position}
    (h : Answers i s st d p) (h' : Answers i s st' d' p') : st = st' ∧ d = d' ∧ p = p' := by
  have hresp := congrArg State.responses (Host.Outcome.next.inj (h.symm.trans h'))
  simpa using hresp

/-- `ENC.bcd` answers the character of a value up to 99. -/
theorem answers_encBcd {b : Byte} (h : b.toNat ≤ 99) (s : State) :
    Answers (.encBcd b) s .okData (cellToCp (nibEnc (bcdPack b) s.cfg.bcdTCol s.cfg.bcdMsbRow)) 0#64 :=
  answers_encOf (sty := .bcd) (bcdEncode_of_le h s.cfg)

/-- `DEC.bcd` answers the error of a cell with a digit above 9. -/
theorem answers_decBcd_of_nonDigit {s : State} {c : CodePoint} {o : Byte} (hc : cpToCell c = some o)
    (h : HasNonDigit s.cfg o) : Answers (.decBcd c) s .errDomain 0#16 0#64 :=
  answers_decOf_of_err (sty := .bcd) hc (bcdDecodeCell_of_nonDigit h)

/-- Settles O24: the nibbles of the packed value are its digits; under the default parameters, the nibble-column style of
R91 is `nlbb`. -/
theorem bcdIsNibbleColumnOfPack : Obligations.BcdIsNibbleColumnOfPack := by
  refine ⟨fun g v hv => ⟨toNat_msn_bcdPack hv, toNat_lsn_bcdPack hv, bcdEncode_of_le hv g⟩, fun s v hv hcol hmsb => ?_⟩
  have hunit : encUnit s.cfg .bcd v = encUnit s.cfg .nlbb (bcdPack v) := by
    have henc := bcdEncode_of_le hv s.cfg
    rwa [hcol, hmsb] at henc
  calc exec (.encBcd v) s
    _ = .next (s.answerEnc (encUnit s.cfg .bcd v)) := exec_encOf .bcd v s
    _ = .next (s.answerEnc (encUnit s.cfg .nlbb (bcdPack v))) := by rw [hunit]
    _ = exec (.encNlbb (bcdPack v)) s := (exec_encOf .nlbb (bcdPack v) s).symm

/-- Settles O22: the digits are the nibbles of the packed value. -/
theorem encBcdAnswers : Obligations.EncBcdAnswers := by
  refine ⟨fun w hw => decode_of_enc_mask .bcd hw, fun b s => ?_⟩
  split_ifs with hb
  · exact answers_encOf_of_err (sty := .bcd) (bcdEncode_of_ge hb s.cfg)
  · have hle : b.toNat ≤ 99 := by omega
    exact ⟨_, msn (bcdPack b), lsn (bcdPack b), toNat_msn_bcdPack hle, toNat_lsn_bcdPack hle, toNat_cellToCp _,
      answers_encBcd hle s⟩

/-- Settles O23: by whether both columns of the cell hold a digit; the count is that of the values. -/
theorem decBcdAnswers : Obligations.DecBcdAnswers := by
  refine ⟨fun w hw => decode_of_dec_mask .bcd hw, fun c s => ?_, length_filter_bcdDecodeCell_ne_err⟩
  refine answersDecode_decOf (sty := .bcd) fun o ho => ?_
  dsimp only
  split_ifs with hdigits
  · exact answers_decBcd_of_nonDigit ho hdigits
  · obtain ⟨b, hdec, hval⟩ := bcdDecodeCell_of_digits hdigits
    obtain ⟨hle, -⟩ := bcdDecodeCell_eq_ok_iff.mp hdec
    have hnat : (b.zeroExtend 16).toNat = b.toNat := BitVec.toNat_setWidth_of_le (by decide)
    exact ⟨b.zeroExtend 16, hnat.trans hval, hnat.trans_le hle, answers_decOf (sty := .bcd) ho hdec⟩

/-- Every Braille character has a value up to 99 that the two commands take to each other, or is a `DomainError`. -/
theorem answers_decBcd_cases {c : CodePoint} (hc : Braille c) (s : State) :
    (∃ b : Byte, b.toNat ≤ 99 ∧ Answers (.decBcd c) s .okData (b.zeroExtend 16) 0#64 ∧
      Answers (.encBcd b) s .okData (c.truncate 16) 0#64) ∨
    Answers (.decBcd c) s .errDomain 0#16 0#64 := by
  have ho := cpToCell_of_braille hc
  by_cases hdigits : HasNonDigit s.cfg (c.extractLsb' 0 8)
  · exact .inr (answers_decBcd_of_nonDigit ho hdigits)
  · obtain ⟨b, hdec, -⟩ := bcdDecodeCell_of_digits hdigits
    obtain ⟨hle, hcell⟩ := bcdDecodeCell_eq_ok_iff.mp hdec
    have henc := answers_encBcd hle s
    rw [hcell, cellToCp_of_cpToCell ho] at henc
    exact .inl ⟨b, hle, answers_decOf (sty := .bcd) ho hdec, henc⟩

/-- Settles O29: the count of the rejected cells, and each direction of the bijection on the commands. -/
theorem bcdIsABijection : Obligations.BcdIsABijection := by
  refine ⟨length_filter_bcdDecodeCell_eq_err, fun s => ⟨fun c hc => ?_, fun b hb => ?_, fun c d hc hd => ?_⟩⟩
  · exact (answers_decBcd_cases hc s).imp_left fun ⟨b, _, hdec, _⟩ => ⟨_, hdec⟩
  · exact ⟨_, answers_encBcd hb s,
      answers_decOf (sty := .bcd) (cpToCell_cellToCp _) (bcdDecodeCell_eq_ok_iff.mpr ⟨hb, rfl⟩)⟩
  · obtain ⟨b, hle, hdec, henc⟩ | herr := answers_decBcd_cases hc s
    · obtain ⟨-, rfl, -⟩ := answers_unique hdec hd
      have hback : (b.zeroExtend 16).truncate 8 = b := BitVec.setWidth_setWidth_of_le _ (by decide) |>.trans b.setWidth_eq
      rw [hback, BitVec.toNat_setWidth_of_le (by decide)]
      exact ⟨hle, henc⟩
    · cases (answers_unique herr hd).1

end Sys2Proof.Machine
end

section
/-!
PROOFS. The per-unit functions `EncUnit` and `DecUnit` (44_stream R101, R102): what each gives in every style, by the domain
of the byte and by the class of the code point, and that the one-shot commands answer exactly this.
-/

namespace Sys2Proof.Machine

/-! ### `EncUnit` by the domain of the byte (R101) -/

/-- The bytes outside a style's domain are those of 100 or more, in style `bcd` (R44). -/
theorem inDomain_eq_false_iff {sty : Style} {b : Byte} : inDomain sty b = false ↔ sty = .bcd ∧ 100 ≤ b.toNat := by
  cases sty <;> simp [inDomain, bcdDomain, BitVec.le_def]

/-- Every style has one cell for each byte of its domain, and decodes the cell to the byte. -/
theorem exists_cell (g : Config) (sty : Style) :
    ∃ cell : Byte → Byte, ∀ b, inDomain sty b = true →
      encUnit g sty b = .ok (cellToCp (cell b)) ∧ decCell g sty (cell b) = .ok b := by
  by_cases hbcd : sty = .bcd
  · subst hbcd
    refine ⟨fun b => nibEnc (bcdPack b) g.bcdTCol g.bcdMsbRow, fun b hdom => ?_⟩
    have hle : b.toNat ≤ 99 := Nat.le_of_lt_succ (BitVec.lt_def.mp (of_decide_eq_true hdom))
    exact ⟨bcdEncode_of_le hle g, bcdDecodeCell_eq_ok_iff.mpr ⟨hle, rfl⟩⟩
  · obtain ⟨e, henc, hdec⟩ := exists_equiv_of_ne_bcd hbcd g
    exact ⟨e, fun b _ => ⟨henc b, (hdec (e b)).trans (by rw [e.symm_apply_apply])⟩⟩

/-- A byte of the domain encodes to the character of a cell. -/
theorem encUnit_of_inDomain {sty : Style} {b : Byte} (h : inDomain sty b = true) (g : Config) :
    ∃ o, encUnit g sty b = .ok (cellToCp o) := by
  obtain ⟨cell, hcell⟩ := exists_cell g sty
  exact ⟨cell b, (hcell b h).1⟩

/-- Any other byte is a `DomainError`. -/
theorem encUnit_of_not_inDomain {sty : Style} {b : Byte} (h : inDomain sty b = false) (g : Config) :
    encUnit g sty b = .err .domainError := by
  obtain ⟨rfl, hb⟩ := inDomain_eq_false_iff.mp h
  exact bcdEncode_of_ge hb g

/-- `EncUnit` fails exactly on the bytes of 100 or more of style `bcd` (R106). -/
theorem encUnit_eq_domainError_iff {g : Config} {sty : Style} {b : Byte} :
    encUnit g sty b = .err .domainError ↔ sty = .bcd ∧ 100 ≤ b.toNat := by
  rw [← inDomain_eq_false_iff]
  refine ⟨fun h => ?_, fun h => encUnit_of_not_inDomain h g⟩
  by_contra hdom
  obtain ⟨o, henc⟩ := encUnit_of_inDomain (eq_true_of_ne_false hdom) g
  cases h.symm.trans henc

/-- The code point of a cell is a Braille character. -/
theorem braille_cellToCp (o : Byte) : Braille ((cellToCp o).zeroExtend 21) :=
  (cpToCell_eq_some_iff.mp (cpToCell_cellToCp o)).1

/-- Settles O30: style `bcd` by its domain, the others as listed; a one-shot encode answers by the domain of its style. -/
theorem encUnitIsOneShotEncode : Obligations.EncUnitIsOneShotEncode := by
  refine ⟨fun g b => ⟨?_, rfl, rfl, rfl, rfl, rfl⟩, fun s sty b => ?_⟩
  · split_ifs with hb
    · exact bcdEncode_of_ge hb g
    · exact bcdEncode_of_le (by omega) g
  · cases hdom : inDomain sty b with
    | true =>
      obtain ⟨o, henc⟩ := encUnit_of_inDomain hdom s.cfg
      rw [henc]
      exact ⟨answers_encOf henc, braille_cellToCp o⟩
    | false =>
      have henc := encUnit_of_not_inDomain hdom s.cfg
      rw [henc]
      exact ⟨rfl, answers_encOf_of_err henc⟩

/-! ### `DecUnit` by the class of the code point (R102) -/

/-- Outside the block, a separator is skipped and any other code point is an `InvalidCharacterError`. -/
theorem decUnit_of_not_braille {c : CodePoint} (h : ¬ Braille c) (g : Config) (sty : Style) :
    decUnit g sty c = if c ∈ g.sep then .skip else .err .invalidCharacterError := by
  obtain ⟨o, ho, -⟩ | ⟨-, hsep, hunit⟩ | ⟨-, hsep, hunit⟩ := decodeChar_eq g (decCell g sty) c
  · exact absurd (cpToCell_eq_some_iff.mp ho).1 h
  · exact hunit.trans (if_pos hsep).symm
  · exact hunit.trans (if_neg hsep).symm

/-- A code point at an offset of the block has that cell. -/
theorem cpToCell_of_toNat {c : CodePoint} {o : Byte} (h : c.toNat = 0x2800 + o.toNat) : cpToCell c = some o := by
  have := o.isLt
  exact cpToCell_eq_some_iff.mpr ⟨⟨by omega, by omega⟩, by omega⟩

/-- A cell of style `bcd` is decoded by the nibbles of the byte it packs (R91, R93). -/
theorem bcdDecodeCell_eq (g : Config) (o : Byte) :
    bcdDecodeCell g o =
      if 9 < (msn (nibDec o g.bcdTCol g.bcdMsbRow)).toNat ∨ 9 < (lsn (nibDec o g.bcdTCol g.bcdMsbRow)).toNat then
        .err .domainError
      else .ok (BitVec.ofNat 8 (10 * (msn (nibDec o g.bcdTCol g.bcdMsbRow)).toNat +
        (lsn (nibDec o g.bcdTCol g.bcdMsbRow)).toNat)) := by
  rw [msn_nibDec, lsn_nibDec]
  split_ifs with hdigits
  · exact bcdDecodeCell_of_nonDigit hdigits
  · obtain ⟨b, hdec, hval⟩ := bcdDecodeCell_of_digits hdigits
    rw [hdec, ← hval, BitVec.ofNat_toNat, BitVec.setWidth_eq]

/-- Settles O31: by the class of the code point and, for a Braille character, by its cell; a one-shot decode answers each of
the four results. -/
theorem decUnitIsOneShotDecode : Obligations.DecUnitIsOneShotDecode := by
  refine ⟨fun g sty c hc => decUnit_of_not_braille hc g sty, fun g c o hco => ?_, fun s sty c => ?_⟩
  · have hcell := decUnit_of_cell (cpToCell_of_toNat hco) g
    exact ⟨(hcell .bcd).trans (bcdDecodeCell_eq g o), hcell .direct, hcell .nlbb, hcell .nlbt, hcell .nrbb, hcell .nrbt⟩
  · cases hunit : decUnit s.cfg sty c with
    | ok b => exact answers_decOf_of_unit hunit rfl
    | skip => exact answers_decOf_of_unit hunit rfl
    | err k => cases k <;> exact answers_decOf_of_unit hunit rfl

/-! ### The errors of `DecUnit` -/

/-- The only error of a cell is a `DomainError`, in style `bcd`. -/
theorem decCell_eq_err {g : Config} {sty : Style} {o : Byte} {k : ErrorKind} (h : decCell g sty o = .err k) :
    k = .domainError ∧ sty = .bcd := by
  by_cases hbcd : sty = .bcd
  · subst hbcd
    by_cases hdigits : HasNonDigit g o
    · exact ⟨UnitResult.err.inj (h.symm.trans (bcdDecodeCell_of_nonDigit hdigits)), rfl⟩
    · obtain ⟨b, hdec, -⟩ := bcdDecodeCell_of_digits hdigits
      cases h.symm.trans hdec
  · obtain ⟨e, -, hdec⟩ := exists_equiv_of_ne_bcd hbcd g
    cases h.symm.trans (hdec o)

/-- An error is an `InvalidCharacterError` outside the block and the separators, or a `DomainError` of style `bcd` on a
Braille character. -/
theorem decUnit_eq_err {g : Config} {sty : Style} {c : CodePoint} {k : ErrorKind} (h : decUnit g sty c = .err k) :
    (k = .invalidCharacterError ∧ ¬ Braille c ∧ c ∉ g.sep) ∨ (k = .domainError ∧ sty = .bcd ∧ Braille c) := by
  by_cases hc : Braille c
  · obtain ⟨hk, hsty⟩ := decCell_eq_err ((decUnit_of_cell (cpToCell_of_braille hc) g sty).symm.trans h)
    exact .inr ⟨hk, hsty, hc⟩
  · rw [decUnit_of_not_braille hc] at h
    split_ifs at h with hsep
    exact .inl ⟨(UnitResult.err.inj h).symm, hc, hsep⟩

/-- Exactly the code points outside the block and the separators are an `InvalidCharacterError`. -/
theorem decUnit_eq_invalid_iff {g : Config} {sty : Style} {c : CodePoint} :
    decUnit g sty c = .err .invalidCharacterError ↔ ¬ Braille c ∧ c ∉ g.sep := by
  constructor
  · intro h
    obtain ⟨-, hc⟩ | ⟨hk, -⟩ := decUnit_eq_err h
    · exact hc
    · cases hk
  · rintro ⟨hc, hsep⟩
    rw [decUnit_of_not_braille hc, if_neg hsep]

end Sys2Proof.Machine
end

section
/-!
PROOFS. The commands of the stream sequencer (44_stream section 2): `START`, `PUT` and `STAT`, each from the equation of its
`exec`; and that a `PUT` transforms its unit as the one-shot command does (R113).
-/

namespace Sys2Proof.Machine

/-! ### `START` (R103) -/

/-- Two `START`s with the same operands leave the registers of one. -/
theorem sameRegisters_of_start {dir : Direction} {code : BitVec 3} {s t u : State}
    (hst : exec (.start dir code) s = .next t) (htu : exec (.start dir code) t = .next u) : SameRegisters t u := by
  obtain ⟨sty, hsty, rfl⟩ := execStart_next hst
  rw [exec_start_of_ofCode hsty] at htu
  obtain rfl := Host.Outcome.next.inj htu
  exact ⟨rfl, rfl, rfl, rfl, rfl⟩

/-- A word that matches `START` with a style up to 5 is that command of its fields (R43). -/
theorem decode_of_start_mask {w : Request} (h : w &&& 0xF0FFFFFF#32 = 0x20000000#32) (hsty : reqStyle w ≤ 5#3) :
    decode w = .ok (.start (.ofCode (reqDir w)) (reqStyle w)) := by
  have hsel : startRow.selects w = true :=
    Bool.and_eq_true_iff.mpr ⟨beq_iff_eq.mpr h, Bool.or_eq_true_iff.mpr (.inr (decide_eq_true hsty))⟩
  obtain ⟨dir, sty, rfl⟩ := selects_startRow.mp hsel
  rw [reqDir_assemble, reqStyle_assemble, ofCode_direction_code]
  exact (IsWordOf.start dir sty).decode_eq

/-- Settles O35: the word is that of the row of `START`; its equation names every field; the second `START` finds what it
writes. -/
theorem startWritesAllRegisters : Obligations.StartWritesAllRegisters :=
  ⟨fun _ hw hsty => decode_of_start_mask hw hsty, fun dir sty s => exec_start_of_ofCode (ofCode_code sty) dir s,
    fun _ _ _ _ _ hst htu => sameRegisters_of_start hst htu⟩

/-! ### `PUT` (R104 to R107) -/

/-- A legal operand of a `PUT` is a byte in an encode call, and anything in a decode call (R45). -/
theorem putLegal_of_lt {dir : Direction} {u : CodePoint} (h : dir = .enc → u.toNat < 256) : putLegal dir u = true := by
  cases dir with
  | dec => rfl
  | enc =>
    have hbyte : u = (BitVec.ofNat 8 u.toNat).zeroExtend 21 := by
      apply BitVec.eq_of_toNat_eq
      rw [BitVec.toNat_setWidth_of_le (by decide), BitVec.toNat_ofNat, Nat.mod_eq_of_lt (h rfl)]
    rw [hbyte]
    exact putLegal_zeroExtend _

/-- Settles O38: the operand is legal, so the latched error is reported again. -/
theorem putRepeatsLatchedError : Obligations.PutRepeatsLatchedError := by
  intro s u k hfault hbyte
  exact ⟨k.status, by rw [hfault]; rfl, exec_put_of_latched (putLegal_of_lt hbyte) hfault⟩

section
variable {s : State} (hfault : s.fault = none) (hpos : s.pos.toNat < 2 ^ 64 - 1)
include hfault hpos

/-- A `PUT` of a byte in an encode call takes the result of its `EncUnit` (R105, R106). -/
theorem exec_put_byte (hdir : s.dir = .enc) (b : Byte) :
    exec (.put (b.zeroExtend 21)) s = .next (s.putResult (encUnit s.cfg s.style b)) := by
  rw [exec_put_of_unit (hdir ▸ putLegal_zeroExtend b) hfault (mt eq_lastPosition_iff.mp hpos.ne), hdir,
    unitOf_enc_zeroExtend]

/-- A `PUT` in a decode call takes the result of its `DecUnit` (R107). -/
theorem exec_put_codePoint (hdir : s.dir = .dec) (c : CodePoint) :
    exec (.put c) s = .next (s.putResult (decUnit s.cfg s.style c).zext16) := by
  rw [exec_put_of_unit (hdir ▸ rfl) hfault (mt eq_lastPosition_iff.mp hpos.ne), hdir]
  rfl

end

/-- Settles O39: the unit is accepted; outside `bcd`, and up to 99 in it, every byte is in the domain. -/
theorem putAcceptsByteInDomain : Obligations.PutAcceptsByteInDomain := by
  refine ⟨fun s b cp hfault hdir hpos henc => ?_, fun g sty b hb => ?_⟩
  · rw [exec_put_byte hfault hpos hdir, henc]
    rfl
  · have hdom : inDomain sty b = true := by
      by_contra hout
      obtain ⟨hbcd, hge⟩ := inDomain_eq_false_iff.mp (eq_false_of_ne_true hout)
      exact hb.elim (· hbcd) (by omega)
    obtain ⟨o, henc⟩ := encUnit_of_inDomain hdom g
    exact ⟨_, henc⟩

/-- Settles O40: the byte's `EncUnit` fails, which latches its error. -/
theorem putLatchesDomainError : Obligations.PutLatchesDomainError := by
  refine ⟨fun s b hfault hdir hpos hsty hb => ?_, fun _ _ _ => encUnit_eq_domainError_iff⟩
  rw [exec_put_byte hfault hpos hdir, encUnit_eq_domainError_iff.mpr ⟨hsty, hb⟩]
  rfl

/-- Settles O41: by the result of the code point's `DecUnit`. -/
theorem putDecodesCodePoint : Obligations.PutDecodesCodePoint := by
  refine ⟨fun g sty c => ⟨decUnit_eq_invalid_iff, fun h => ?_⟩, fun s c hfault hdir hpos => ?_⟩
  · obtain ⟨hk, -⟩ | ⟨-, hdomain⟩ := decUnit_eq_err h
    · cases hk
    · exact hdomain
  · have hput := exec_put_codePoint hfault hpos hdir c
    cases hunit : decUnit s.cfg s.style c with
    | ok b => rwa [hunit] at hput
    | skip => rwa [hunit] at hput
    | err k => cases k <;> rwa [hunit] at hput

/-! ### `STAT` (R108) -/

/-- The context word holds `STYLE` in bits 2 to 0 and `DIR` in bit 3, and nothing else. -/
theorem extract_contextWord (dir : Direction) (sty : Style) :
    (contextWord dir sty).extractLsb' 0 3 = sty.code ∧ (contextWord dir sty).extractLsb' 3 1 = dir.code ∧
      (contextWord dir sty).extractLsb' 4 12 = 0#12 := by
  cases dir <;> cases sty <;> decide

/-- The word of `STAT` and no other decodes to it (R42). -/
theorem decode_eq_stat_iff {w : Request} : decode w = .ok .stat ↔ w = 0x40000000#32 :=
  ⟨fun h => (decodedWordIsItsEncoding w .stat h).2.symm, fun h => h ▸ decodeEncodeRoundTrip .stat rfl⟩

/-- `STAT` without an error latched answers `POS`. -/
theorem exec_stat_of_none {s : State} (h : s.fault = none) :
    exec .stat s = .next (s.respond .okNoData (contextWord s.dir s.style) s.pos) := by
  simp only [exec, execStat, h]

/-- `STAT` with an error latched answers its code and `EPOS`. -/
theorem exec_stat_of_latched {s : State} {k : ErrorKind} (h : s.fault = some k) :
    exec .stat s = .next (s.respond k.status (contextWord s.dir s.style) s.epos) := by
  simp only [exec, execStat, h]

/-- Settles O42: by whether an error is latched. -/
theorem statReportsRegisters : Obligations.StatReportsRegisters := by
  refine ⟨fun w => decode_eq_stat_iff, fun s => ?_⟩
  obtain ⟨hsty, hdir, hrest⟩ := extract_contextWord s.dir s.style
  cases hfault : s.fault with
  | none => exact ⟨_, _, _, exec_stat_of_none hfault, hsty, hdir, hrest, fun _ => ⟨rfl, rfl⟩, fun h => absurd rfl h⟩
  | some k => exact ⟨_, _, _, exec_stat_of_latched hfault, hsty, hdir, hrest, nofun, fun _ => ⟨rfl, rfl⟩⟩

/-! ### `PUT` and the one-shot commands (R113) -/

/-- A unit's result gives a `PUT` and a one-shot command the same status and data; the positions are `POS` and 0. -/
theorem putResult_answers (s : State) (r : UnitResult OutUnit) :
    ∃ st d, (s.putResult r).responses = s.responses ++ [{ status := st, data := d, pos := s.pos }] ∧
      s.answerEnc r = s.respond st d 0#64 := by
  cases r <;> exact ⟨_, _, rfl, rfl⟩

/-- A one-shot decode answers as a one-shot encode would with the same result, its byte zero-extended (R49). -/
theorem answerDec_eq_answerEnc (s : State) (r : UnitResult Byte) : s.answerDec r = s.answerEnc r.zext16 := by
  cases r <;> rfl

/-- Settles O44: the `PUT` and the one-shot command are given the same unit's result. -/
theorem sequencerAddsNoTransformation : Obligations.SequencerAddsNoTransformation := by
  refine fun s hfault hpos => ⟨fun hdir b => ?_, fun hdir c => ?_⟩
  · obtain ⟨st, d, hput, hone⟩ := putResult_answers s (encUnit s.cfg s.style b)
    exact ⟨_, st, d, exec_put_byte hfault hpos hdir b, hput, (exec_encOf s.style b s).trans (congrArg _ hone)⟩
  · obtain ⟨st, d, hput, hone⟩ := putResult_answers s (decUnit s.cfg s.style c).zext16
    rw [← answerDec_eq_answerEnc] at hone
    exact ⟨_, st, d, exec_put_codePoint hfault hpos hdir c, hput, (exec_decOf s.style c s).trans (congrArg _ hone)⟩

end Sys2Proof.Machine
end

section
/-!
PROOFS. Calls (44_stream R109 to R111): a call runs to the result of its units, begun by `START` or by reset.
-/

namespace Sys2Proof.Machine

/-- Settles O51: a `START` begins the call, whose body runs to the result of its units. -/
theorem callRunsToItsResult : Obligations.CallRunsToItsResult :=
  fun _ _ _ _ _ hlegal hroom hin => run_call hlegal hroom hin

/-- From the registers a reset leaves, the body of an encode call runs to the result of its units in style `nlbb` (R109). -/
theorem run_callBody_of_reset {is : List Instr} {s : State} {rest : List HostEvent}
    (hreg : SameRegisters (State.resetWith s.cfg) s) (hlegal : ∀ i ∈ is, LegalInCall .enc i)
    (hroom : (is.filterMap Instr.putUnit?).length < 2 ^ 64) (hin : s.inputs = requests is ++ rest) :
    ∃ (t : State) (rs : List Response), Host.Core.run core is.length s = .next t ∧ t.inputs = rest ∧
      rs.length = is.length ∧ t.responses = s.responses ++ rs ∧
      t.observedResult (putResponses is rs) =
        callResult (unitOf s.cfg .enc .nlbb) (is.filterMap Instr.putUnit?) 0 := by
  obtain ⟨hsty : s.style = .nlbb, hdir : s.dir = .enc, hpos : s.pos = 0#64, hfault : s.fault = none, -⟩ := hreg
  obtain ⟨t, rs, hrun, hrest, hlen, hresp, hres⟩ :=
    run_callBody (hdir.symm ▸ hlegal) (fun _ => by simpa [hpos] using hroom) hin
  rw [restResult_of_none hfault, hdir, hsty, hpos] at hres
  exact ⟨t, rs, hrun, hrest, hlen, hresp, hres⟩

/-- With a reset presented, a step takes it and writes the registers (R160). -/
theorem step_of_reset {s : State} {rest : List HostEvent} (hin : s.inputs = .reset :: rest) :
    step s = .next (s.withInputs rest).resetRegisters :=
  step_of_cons hin

/-- Settles O56: a pending reset is one step more, which leaves the registers the first branch has. -/
theorem callAfterResetRunsToItsResult : Obligations.CallAfterResetRunsToItsResult := by
  intro s is rest k hlegal hroom hbegin
  obtain ⟨hreg, rfl, hin⟩ | ⟨rfl, hin⟩ := hbegin
  · exact run_callBody_of_reset hreg hlegal hroom hin
  · obtain ⟨t, rs, hrun, hcall⟩ := run_callBody_of_reset
      (s := (s.withInputs (requests is ++ rest)).resetRegisters) ⟨rfl, rfl, rfl, rfl, rfl⟩ hlegal hroom rfl
    exact ⟨t, rs, (run_succ (M := core) (step_of_reset hin) _).trans hrun, hcall⟩

end Sys2Proof.Machine
end

section
/-!
PROOFS. Decoding what was encoded (44_stream R112) and the host's formatter (45_host_format): the result of a sequence of
units without an error does not depend on the units that are skipped, and `Wrap` inserts only such units.
-/

namespace Sys2Proof.Machine

/-! ### Results of sequences of units (R111) -/

/-- Units that all give a value give these values. -/
theorem callResult_of_forall_ok {α β : Type} {f : α → UnitResult β} {v : α → β} {us : List α}
    (h : ∀ u ∈ us, f u = .ok (v u)) (j : Nat) : callResult f us j = .ok (us.map v) := by
  induction us generalizing j with
  | nil => rfl
  | cons u us ih =>
    rw [callResult, h u List.mem_cons_self]
    exact congrArg (Except.map (v u :: ·)) (ih (fun w hw => h w (List.mem_cons_of_mem u hw)) (j + 1))

/-- The first unit with an error is the result, with its position. -/
theorem callResult_of_first_err {α β : Type} {f : α → UnitResult β} {pre post : List α} {u : α} {k : ErrorKind}
    (hpre : ∀ a ∈ pre, ∃ v, f a = .ok v) (hu : f u = .err k) (j : Nat) :
    callResult f (pre ++ u :: post) j = .error (k, j + pre.length) := by
  induction pre generalizing j with
  | nil => simp only [List.nil_append, callResult, hu, List.length_nil, Nat.add_zero]
  | cons a pre ih =>
    obtain ⟨v, hv⟩ := hpre a List.mem_cons_self
    rw [List.cons_append, callResult, hv]
    simp only [ih fun b hb => hpre b (List.mem_cons_of_mem a hb), Except.map, List.length_cons]
    congr 2
    omega

/-- A result without an error stays when units that are skipped are inserted anywhere; the positions play no part. -/
theorem callResult_of_filter {α β : Type} {f : α → UnitResult β} {p : α → Bool} {us : List α} {vs : List β} {j : Nat}
    (hskip : ∀ u, p u = false → f u = .skip) (h : callResult f (us.filter p) j = .ok vs) (k : Nat) :
    callResult f us k = .ok vs := by
  induction us generalizing vs j k with
  | nil => exact h
  | cons u us ih =>
    cases hp : p u with
    | false =>
      rw [List.filter_cons_of_neg (ne_true_of_eq_false hp)] at h
      rw [callResult, hskip u hp]
      exact ih h (k + 1)
    | true =>
      rw [List.filter_cons_of_pos hp, callResult] at h
      rw [callResult]
      cases hu : f u with
      | err e => rw [hu] at h; cases h
      | skip =>
        rw [hu] at h
        exact ih h (k + 1)
      | ok v =>
        rw [hu] at h
        cases hrest : callResult f (us.filter p) (j + 1) with
        | error e => rw [hrest] at h; cases h
        | ok ws =>
          rw [hrest] at h
          exact (congrArg (Except.map (v :: ·)) (ih hrest (k + 1))).trans h

/-! ### Separators (R140) -/

/-- The constraints on `SEP`: the host's line break and indentation unit are members, and no Braille character is. -/
theorem wf_iff {g : Config} :
    g.wf = true ↔ lineBreak ∈ g.sep ∧ indentUnit ∈ g.sep ∧ ∀ c ∈ g.sep, ¬ Braille c := by
  simp [Config.wf, lineBreak, indentUnit, ← isBraille_iff, and_assoc]

/-- A Braille character is no separator. -/
theorem not_mem_sep_of_braille {g : Config} (hwf : g.wf = true) {c : CodePoint} (hc : Braille c) : c ∉ g.sep := by
  obtain ⟨-, -, hsep⟩ := wf_iff.mp hwf
  exact fun hmem => hsep c hmem hc

/-- A separator is skipped in every style. -/
theorem decUnit_of_mem_sep {g : Config} (hwf : g.wf = true) {c : CodePoint} (hc : c ∈ g.sep) (sty : Style) :
    decUnit g sty c = .skip := by
  rw [decUnit_of_not_braille fun hbraille => not_mem_sep_of_braille hwf hbraille hc, if_pos hc]

/-- Text that decodes without its separators decodes with them. -/
theorem callResult_of_stripSeparators {g : Config} (hwf : g.wf = true) {sty : Style} {text : List CodePoint}
    {bs : List Byte} (h : callResult (decUnit g sty) (stripSeparators g text) 0 = .ok bs) :
    callResult (decUnit g sty) text 0 = .ok bs :=
  callResult_of_filter (fun c hc => decUnit_of_mem_sep hwf (by simpa using hc) sty) h 0

/-! ### The round trip (R112) -/

/-- The bytes of a style's domain encode to Braille characters that decode to them. -/
theorem exists_chars {sty : Style} {bs : List Byte} (hdom : ∀ b ∈ bs, inDomain sty b = true) (g : Config) :
    ∃ chars : List OutUnit, callResult (encUnit g sty) bs 0 = .ok chars ∧
      callResult (decUnit g sty) (chars.map (·.zeroExtend 21)) 0 = .ok bs ∧
      ∀ c ∈ chars.map (·.zeroExtend 21), Braille c := by
  obtain ⟨cell, hcell⟩ := exists_cell g sty
  refine ⟨bs.map (cellToCp ∘ cell), callResult_of_forall_ok (fun b hb => (hcell b (hdom b hb)).1) 0, ?_, ?_⟩
  · have hdec : ∀ b ∈ bs, decUnit g sty ((cellToCp (cell b)).zeroExtend 21) = .ok b := fun b hb =>
      (decUnit_of_cell (cpToCell_cellToCp _) g sty).trans (hcell b (hdom b hb)).2
    rw [callResult_map, callResult_map]
    exact (callResult_of_forall_ok (v := id) hdec 0).trans (by rw [List.map_id])
  · simp only [List.mem_map]
    rintro c ⟨cp, ⟨b, -, rfl⟩, rfl⟩
    exact braille_cellToCp _

/-- Settles O53: the characters decode to the bytes, and separators among them are skipped. -/
theorem roundTripThroughSeparators : Obligations.RoundTripThroughSeparators := by
  intro g sty bs hwf hdom
  obtain ⟨chars, henc, hdec, -⟩ := exists_chars hdom g
  exact ⟨chars, henc, fun text htext => callResult_of_stripSeparators hwf (htext ▸ hdec)⟩

/-! ### The host's formatter (R121, R122, R125) -/

section
variable {g : Config} (hwf : g.wf = true)
include hwf

/-- What `Wrap` inserts after a character is removed with the separators. -/
theorem stripSeparators_wrapSeparator (n indent k : Nat) : stripSeparators g (wrapSeparator n indent k) = [] := by
  obtain ⟨hbreak, hindent, -⟩ := wf_iff.mp hwf
  unfold wrapSeparator
  split
  · simp [stripSeparators, hbreak, hindent]
  · rfl

/-- Removing the separators from the loop of `Wrap` gives the characters back, at every index. -/
theorem stripSeparators_wrapFrom {chars : List CodePoint} (hchars : ∀ c ∈ chars, Braille c) (n indent k : Nat) :
    stripSeparators g (wrapFrom n indent chars k) = chars := by
  induction chars generalizing k with
  | nil => rfl
  | cons c cs ih =>
    have hc := not_mem_sep_of_braille hwf (hchars c List.mem_cons_self)
    have hrest := ih (fun d hd => hchars d (List.mem_cons_of_mem c hd)) (k + 1)
    have hins := stripSeparators_wrapSeparator hwf n indent k
    simp only [stripSeparators] at hrest hins ⊢
    rw [wrapFrom, List.filter_cons_of_pos (by simpa using hc), List.filter_append, hins, hrest, List.nil_append]

/-- Removing the separators from wrapped characters gives them back, at every width and indent (R122). -/
theorem stripSeparators_wrap {chars : List CodePoint} (hchars : ∀ c ∈ chars, Braille c) (n indent : Nat) :
    stripSeparators g (wrap chars n indent) = chars := by
  unfold wrap
  split
  · exact List.filter_eq_self.mpr fun c hc => by simpa using not_mem_sep_of_braille hwf (hchars c hc)
  · exact stripSeparators_wrapFrom hwf hchars n indent 0

end

/-- Settles O55: the wrapped text without its separators is the encoding; the first byte outside the domain is the error. -/
theorem hostRoundTripAtAnyWrap : Obligations.HostRoundTripAtAnyWrap := by
  refine fun g sty bs n indent hwf => ⟨fun hdom => ?_, fun pre post b hbs hpre hb => ?_⟩
  · obtain ⟨chars, henc, hdec, hbraille⟩ := exists_chars hdom g
    refine ⟨_, congrArg (Except.map _) henc, callResult_of_stripSeparators hwf ?_⟩
    rwa [stripSeparators_wrap hwf hbraille]
  · have hok : ∀ a ∈ pre, ∃ cp, encUnit g sty a = .ok cp := fun a ha => by
      obtain ⟨o, henc⟩ := encUnit_of_inDomain (hpre a ha) g
      exact ⟨_, henc⟩
    rw [hostEncode, hbs, callResult_of_first_err hok (encUnit_of_not_inDomain hb g), Nat.zero_add]
    rfl

end Sys2Proof.Machine
end

section
/-!
PROOFS. What `Wrap` inserts between the characters (45_host_format R121, R122).
-/

namespace Sys2Proof.Machine

/-- What `Wrap` inserts after a character is line breaks and indentation (R121). -/
theorem eq_of_mem_wrapSeparator {n indent k : Nat} {c : CodePoint} (h : c ∈ wrapSeparator n indent k) :
    c = lineBreak ∨ c = indentUnit := by
  unfold wrapSeparator at h
  split at h
  · exact (List.mem_cons.mp h).imp_right List.eq_of_mem_replicate
  · cases h

/-- The loop of `Wrap` gives characters, line breaks and indentation only, from every index on. -/
theorem mem_wrapFrom {n indent k : Nat} {chars : List CodePoint} {c : CodePoint}
    (h : c ∈ wrapFrom n indent chars k) : c ∈ chars ∨ c = lineBreak ∨ c = indentUnit := by
  induction chars generalizing k with
  | nil => cases h
  | cons d ds ih =>
    rw [wrapFrom, List.mem_cons, List.mem_append] at h
    obtain rfl | hins | hrest := h
    · exact .inl List.mem_cons_self
    · exact .inr (eq_of_mem_wrapSeparator hins)
    · exact (ih hrest).imp_left (List.mem_cons_of_mem d)

/-- The wrapped text holds characters, line breaks and indentation only, at every width and indent (R122). -/
theorem mem_wrap {n indent : Nat} {chars : List CodePoint} {c : CodePoint} (h : c ∈ wrap chars n indent) :
    c ∈ chars ∨ c = lineBreak ∨ c = indentUnit := by
  unfold wrap at h
  split at h
  · exact .inl h
  · exact mem_wrapFrom h

/-- Settles O54: the members of the wrapped text, and what is left of it without the separators. -/
theorem wrapInsertsOnlySeparators : Obligations.WrapInsertsOnlySeparators :=
  fun _ _ n indent hwf hchars => ⟨fun _ => mem_wrap, stripSeparators_wrap hwf hchars n indent⟩

end Sys2Proof.Machine
end

section
/-!
PROOFS. Errors and classification (60_exceptions): the class of a decode input and the conditions of the two errors, as equations
about `Classify`, `EncUnit` and `DecUnit`; then what a latched error and the invariant of 10_state section 4 become in a step,
by the step's effect.
-/

namespace Sys2Proof.Machine

/-! ### Classification (R139) -/

/-- `CpToCell` gives the offset from the beginning of the block. -/
theorem cpToCell_eq_some_iff_toNat {c : CodePoint} {o : Byte} : cpToCell c = some o ↔ c.toNat = 0x2800 + o.toNat := by
  refine ⟨fun h => ?_, cpToCell_of_toNat⟩
  obtain ⟨⟨hlo, -⟩, ho⟩ := cpToCell_eq_some_iff.mp h
  omega

/-- A Braille character is classified with its low byte as the offset. -/
theorem classify_of_braille {c : CodePoint} (hc : Braille c) (g : Config) :
    classify g c = .braille (c.extractLsb' 0 8) := by
  rw [classify, cpToCell_of_braille hc]

/-- Any other value is classified by membership in `SEP`. -/
theorem classify_of_not_braille {c : CodePoint} (hc : ¬ Braille c) (g : Config) :
    classify g c = if c ∈ g.sep then .separator else .invalid := by
  have hnone : cpToCell c = none := Option.eq_none_iff_forall_ne_some.mpr fun o ho => hc (cpToCell_eq_some_iff.mp ho).1
  simp only [classify, hnone, List.contains_iff_mem]

theorem classify_eq_braille_iff {g : Config} {c : CodePoint} {o : Byte} :
    classify g c = .braille o ↔ c.toNat = 0x2800 + o.toNat := by
  rw [← cpToCell_eq_some_iff_toNat]
  by_cases hc : Braille c
  · rw [classify_of_braille hc, cpToCell_of_braille hc, CharClass.braille.injEq, Option.some_inj]
  · rw [classify_of_not_braille hc, cpToCell_eq_some_iff, iff_false_right fun h => hc h.1]
    split_ifs <;> nofun

theorem classify_eq_separator_iff {g : Config} {c : CodePoint} : classify g c = .separator ↔ ¬ Braille c ∧ c ∈ g.sep := by
  by_cases hc : Braille c
  · rw [classify_of_braille hc]
    exact iff_of_false nofun fun h => h.1 hc
  · simp [classify_of_not_braille hc, hc]

theorem classify_eq_invalid_iff {g : Config} {c : CodePoint} : classify g c = .invalid ↔ ¬ Braille c ∧ c ∉ g.sep := by
  by_cases hc : Braille c
  · rw [classify_of_braille hc]
    exact iff_of_false nofun fun h => h.1 hc
  · simp [classify_of_not_braille hc, hc]

/-- Settles O33: class by class; under R140 a separator is no Braille character, so the order of the tests plays no part. -/
theorem classifyIsTotalAndDisjoint : Obligations.ClassifyIsTotalAndDisjoint := by
  refine ⟨fun g c => ⟨fun o => classify_eq_braille_iff, ?_, classify_eq_separator_iff, classify_eq_invalid_iff⟩,
    fun g c hwf hc => classify_eq_separator_iff.mpr ⟨fun hbraille => not_mem_sep_of_braille hwf hbraille hc, hc⟩⟩
  refine ⟨fun ⟨o, ho⟩ => ?_, fun hc => ⟨_, classify_of_braille hc g⟩⟩
  exact (cpToCell_eq_some_iff.mp (cpToCell_eq_some_iff_toNat.mpr (classify_eq_braille_iff.mp ho))).1

/-! ### The conditions of the two errors (R136 to R138) -/

/-- The only error of `EncUnit` is a `DomainError`. -/
theorem eq_domainError_of_encUnit {g : Config} {sty : Style} {b : Byte} {k : ErrorKind} (h : encUnit g sty b = .err k) :
    k = .domainError := by
  cases hdom : inDomain sty b with
  | true =>
    obtain ⟨o, henc⟩ := encUnit_of_inDomain hdom g
    cases henc.symm.trans h
  | false => exact UnitResult.err.inj (h.symm.trans (encUnit_of_not_inDomain hdom g))

/-- `bcd` decodes every cell but those with a digit above 9 (R93). -/
theorem bcdDecodeCell_eq_domainError_iff {g : Config} {o : Byte} :
    bcdDecodeCell g o = .err .domainError ↔ HasNonDigit g o := by
  refine ⟨fun h => ?_, bcdDecodeCell_of_nonDigit⟩
  by_contra hdigits
  obtain ⟨b, hdec, -⟩ := bcdDecodeCell_of_digits hdigits
  cases hdec.symm.trans h

/-- `DecUnit` gives a `DomainError` exactly on the cells of style `bcd` with a digit above 9. -/
theorem decUnit_eq_domainError_iff {g : Config} {sty : Style} {c : CodePoint} :
    decUnit g sty c = .err .domainError ↔ sty = .bcd ∧ ∃ o : Byte, c.toNat = 0x2800 + o.toNat ∧ HasNonDigit g o := by
  constructor
  · intro h
    obtain ⟨hk, -⟩ | ⟨-, rfl, hc⟩ := decUnit_eq_err h
    · cases hk
    · have hcell := cpToCell_of_braille hc
      rw [decUnit_of_cell hcell] at h
      exact ⟨rfl, _, cpToCell_eq_some_iff_toNat.mp hcell, bcdDecodeCell_eq_domainError_iff.mp h⟩
  · rintro ⟨rfl, o, ho, hdigits⟩
    rw [decUnit_of_cell (cpToCell_of_toNat ho)]
    exact bcdDecodeCell_of_nonDigit hdigits

/-- Settles O32: the two kinds of error of `DecUnit`, and the one of `EncUnit`. -/
theorem errorsRaisedExactly : Obligations.ErrorsRaisedExactly := by
  refine ⟨fun g sty b k => ⟨fun h => ?_, ?_⟩, fun _ _ _ => decUnit_eq_domainError_iff, fun _ _ _ => decUnit_eq_invalid_iff⟩
  · obtain rfl := eq_domainError_of_encUnit h
    exact ⟨rfl, encUnit_eq_domainError_iff.mp h⟩
  · rintro ⟨rfl, h⟩
    exact encUnit_eq_domainError_iff.mpr h

/-! ### The latched error (R144) -/

/-- With nothing presented, no call begins. -/
theorem not_beginsCall_of_nil {s : State} (hin : s.inputs = []) : ¬ BeginsCall s := by
  rintro ⟨e, rest, hin', -⟩
  cases hin.symm.trans hin'

/-- Of the requests, only a `START` begins a call (R110). -/
theorem not_beginsCall_of_request {s : State} {w : Request} {rest : List HostEvent} {i : Instr}
    (hin : s.inputs = .request w :: rest) (hdec : decode w = .ok i) (hstart : i.isStart = false) : ¬ BeginsCall s := by
  rintro ⟨e, rest', hin', rfl | ⟨w', dir, code, rfl, hdec'⟩⟩
  · cases hin.symm.trans hin'
  · cases hin.symm.trans hin'
    cases hdec.symm.trans hdec'
    cases hstart

/-- Settles O46: of the effects a step can have, only a reset and a `START` begin a call, and they clear the three registers; a
`PUT` treats its unit only with no error latched. -/
theorem latchedErrorLeftOnlyByNewCall : Obligations.LatchedErrorLeftOnlyByNewCall := by
  refine ⟨fun s t h hfault hb => ?_, fun s t h hb => ?_⟩
  · cases step_effect h with
    | reset rest hin => exact absurd (beginsCall_of_reset hin) hb
    | start w rest dir code sty hin hdec => exact absurd (beginsCall_of_start hin hdec) hb
    | accept w rest u st d hin hdec hnone => exact absurd hnone hfault
    | latch w rest u k hin hdec hnone => exact absurd hnone hfault
    | idle | answer => exact ⟨rfl, rfl, rfl⟩
  · cases step_effect h with
    | reset | start => exact ⟨rfl, rfl, rfl⟩
    | idle hin => exact absurd hb (not_beginsCall_of_nil hin)
    | answer w rest i st d p hin hdec hstart => exact absurd hb (not_beginsCall_of_request hin hdec hstart)
    | accept w rest u st d hin hdec => exact absurd hb (not_beginsCall_of_request hin hdec rfl)
    | latch w rest u k hin hdec => exact absurd hb (not_beginsCall_of_request hin hdec rfl)

/-! ### The invariant (10_state section 4) -/

/-- Widening a decode result adds no error. -/
theorem zext16_eq_err {r : UnitResult Byte} {k : ErrorKind} (h : r.zext16 = .err k) : r = .err k := by
  cases r with
  | err k' => cases h; rfl
  | ok | skip => cases h

/-- What a call can latch: a `DomainError` in style `bcd`, or an `InvalidCharacterError` in a decode call (R135). -/
theorem unitOf_eq_err {g : Config} {dir : Direction} {sty : Style} {u : CodePoint} {k : ErrorKind}
    (h : unitOf g dir sty u = .err k) :
    (k = .domainError ∧ sty = .bcd) ∨ (k = .invalidCharacterError ∧ dir = .dec) := by
  cases dir with
  | enc =>
    obtain rfl := eq_domainError_of_encUnit h
    exact .inl ⟨rfl, (encUnit_eq_domainError_iff.mp h).1⟩
  | dec =>
    obtain ⟨hk, -⟩ | ⟨hk, hsty, -⟩ := decUnit_eq_err (zext16_eq_err h)
    · exact .inr ⟨hk, rfl⟩
    · exact .inl ⟨hk, hsty⟩

/-- Without a latched error, the invariant asks for `EPOS` = 0 and the constraints on `SEP`. -/
theorem inv_of_none {s : State} (hwf : s.cfg.wf = true) (hfault : s.fault = none) (hepos : s.epos = 0#64) : s.Inv := by
  refine ⟨hwf, fun _ => hepos, fun h => absurd hfault h, fun h => ?_, fun h => ?_⟩ <;> cases hfault.symm.trans h

/-- An error that a unit of the call raises is latched with the invariant. -/
theorem inv_raiseInCall {s : State} {u : CodePoint} {k : ErrorKind} (hwf : s.cfg.wf = true)
    (hunit : unitOf s.cfg s.dir s.style u = .err k) : (s.raiseInCall k).Inv := by
  obtain ⟨rfl, hstyle⟩ | ⟨rfl, hdir⟩ := unitOf_eq_err hunit
  · exact ⟨hwf, nofun, fun _ => rfl, fun _ => hstyle, nofun⟩
  · exact ⟨hwf, nofun, fun _ => rfl, nofun, fun _ => hdir⟩

/-- Settles O49: by the effect of the step. Only the latching of an error leaves a `FAULT` that was not there before. -/
theorem everyStepKeepsInvariant : Obligations.EveryStepKeepsInvariant := by
  intro s t hinv h
  have ⟨hwf, hepos, _⟩ := hinv
  cases step_effect h with
  | idle | answer => exact hinv
  | reset | start => exact inv_of_none hwf rfl rfl
  | accept w rest u st d hin hdec hfault => exact inv_of_none hwf hfault (hepos hfault)
  | latch w rest u k hin hdec hfault hunit => exact inv_raiseInCall hwf hunit

/-- Settles O50: after reset no error is latched and `EPOS` is 0; the default parameters meet the constraints. -/
theorem resetMeetsInvariant : Obligations.ResetMeetsInvariant :=
  ⟨fun _ hwf => inv_of_none hwf rfl rfl, inv_of_none (by decide) rfl rfl⟩

end Sys2Proof.Machine
end

section
/-!
PROOFS. Reset (70): what a one-shot command answers depends on the parameters alone, and a reset event keeps those.
-/

namespace Sys2Proof.Machine

/-- In states with the same parameters, a one-shot command has the same answers (R10). -/
theorem answers_congr_of_cfg {i : Instr} {s t : State} (hone : i.isOneShot = true) (hcfg : s.cfg = t.cfg)
    (st : Status) (d : OutUnit) (p : Position) : Answers i s st d p ↔ Answers i t st d p := by
  obtain ⟨_, _, hs, ht⟩ := oneShotIgnoresRegisters i s t hone hcfg
  constructor
  · intro h
    obtain ⟨rfl, rfl, rfl⟩ := answers_unique hs h
    exact ht
  · intro h
    obtain ⟨rfl, rfl, rfl⟩ := answers_unique ht h
    exact hs

/-- Settles O7: the step leaves the state with its registers reset, which has the parameters of the state before. -/
theorem resetEventWritesRegisters : Obligations.ResetEventWritesRegisters := by
  intro s rest hin
  have hcfg : s.cfg = (s.withInputs rest).resetRegisters.cfg := rfl
  exact ⟨_, step_of_reset hin, rfl, rfl, rfl, rfl, rfl, hcfg.symm,
    fun _ st d hone => answers_congr_of_cfg hone hcfg st d 0#64⟩

end Sys2Proof.Machine
end

section
/-!
PROOFS. What the block does with nothing to do, what a reset leaves alone (70 sections 1 and 4), and the order of a `PUT`'s
tests (60 R141).
-/

namespace Sys2Proof.Machine

/-- Settles O6: a step takes an event only where one is pending. -/
theorem idleStepChangesNothing : Obligations.IdleStepChangesNothing :=
  fun _ hin => step_of_nil hin

/-- Settles O8: the step's state is the one with its registers reset, and the reset writes neither port. -/
theorem resetEventKeepsPorts : Obligations.ResetEventKeepsPorts := by
  intro s t rest hin hstep
  obtain rfl := Host.Outcome.next.inj ((step_of_reset hin).symm.trans hstep)
  exact ⟨resetRegisters_inputs _, resetRegisters_responses _⟩

/-- In an encode call an operand from 256 on is illegal: it has a bit above its low byte (R45). -/
theorem putLegal_enc_of_le {u : CodePoint} (h : 256 ≤ u.toNat) : putLegal .enc u = false := by
  refine putLegal_eq_false.mpr ⟨rfl, fun hhigh => ?_⟩
  have hzero : u.toNat >>> 8 % 2 ^ 13 = 0 := by
    rw [← BitVec.extractLsb'_toNat, hhigh]
    rfl
  have hlt : u.toNat < 2 ^ 21 := u.isLt
  omega

/-- Settles O43: an illegal operand is refused before `FAULT` and `POS` are read; with a legal one a latched error answers
before `POS` is read; without one the last position is refused before the unit is treated. -/
theorem putTestsInOrder : Obligations.PutTestsInOrder := by
  refine fun s u => ⟨fun hdir hu => ?_, fun hu hfault => ?_, fun hu hfault hpos => ?_⟩
  · exact exec_put_of_illegal (hdir ▸ putLegal_enc_of_le hu)
  · exact exec_put_next (putLegal_of_lt hu) fun hnone => absurd hnone hfault
  · exact exec_put_of_last (putLegal_of_lt hu) hfault (eq_lastPosition_iff.mpr hpos)

end Sys2Proof.Machine
end
